-- ==== Sys2Proof/Word.lean ====
section
/-! DEFINITION. The words of `frame_builder`: a byte, an offset into the effect payload, a frame. -/

namespace Sys2Proof

/-- A byte (00_scope.md R7). -/
abbrev Byte := BitVec 8

/-- An offset into the effect payload `EP`, `LEN_W` = 16 bits (20_memory.md R50; log entry 20). -/
abbrev Offset := BitVec 16

/-- A frame: "a sequence of exactly 20 bytes" (00_scope.md R8, 30_encoding.md R74). -/
abbrev Frame := Vector Byte 20

end Sys2Proof
end

