-- ==== Sys2Proof/Config.lean ====
section
/-! DEFINITION. What an implementation of `frame_builder` chooses: the two OPEN parameters of 00_scope.md R5. -/

namespace Sys2Proof

/-- `SEQ_BASE`, the sequence index of the first chunk frame; legal values 0 and 1 (00_scope.md R5, D14). -/
inductive SeqBase where
  | zero
  | one
  deriving DecidableEq, Repr

/-- `ROUND_MODE`, the rounding of the brightness scaling (00_scope.md R5, D25). -/
inductive RoundMode where
  | halfUp
  | halfEven
  deriving DecidableEq, Repr

/-- The parameters a reader may set; fixed for one machine, written by no step (log entry 2). -/
structure Config where
  seqBase   : SeqBase
  roundMode : RoundMode
  deriving DecidableEq, Repr

end Sys2Proof
end

