-- ==== Sys2Proof/Machine/Params.lean ====
section
/-! DEFINITION. The numeric parameters of 00_scope.md R5, each named once (93_implementation_defined.md U9). -/

namespace Sys2Proof.Machine

/-- `PAYLOAD_LEN`: payload bytes in a frame. -/
abbrev payloadLen : Nat := 17
/-- `PREFIX`: byte 0 of every frame. -/
abbrev framePrefix : Byte := 0x33
/-- `NSEG`: physical segments. -/
abbrev segments : Int := 15
/-- `MASK_ALL`, low byte. -/
abbrev maskAllLow : Byte := 0x00
/-- `MASK_ALL`, high byte. -/
abbrev maskAllHigh : Byte := 0xFF
/-- `CMD_POWER`. -/
abbrev cmdPower : Byte := 0x01
/-- `CMD_BRIGHT`. -/
abbrev cmdBright : Byte := 0x04
/-- `CMD_COLOR`. -/
abbrev cmdColor : Byte := 0x05
/-- `CMD_EFFECT`: reserved for multi-packet effects; a value hosts pass, never forced (42_chunker.md R153). -/
abbrev cmdEffect : Byte := 0xA3
/-- `HDR_MAX`: header lanes of a CHUNK request. -/
abbrev headerMax : Nat := 14
/-- Colour mode of the all-segments mode (30_encoding.md R76). -/
abbrev modeAll : Byte := 0x02
/-- Colour mode of the segment-targeted mode (30_encoding.md R76). -/
abbrev modeSegment : Byte := 0x0B

/-- `SEQ_BASE` as a number. -/
def seqBaseNat : SeqBase → Nat
  | .zero => 0
  | .one => 1

/-- The defaults of 00_scope.md R5: `SEQ_BASE` = 0, `ROUND_MODE` = `half_up`. -/
def defaultConfig : Config := { seqBase := .zero, roundMode := .halfUp }

end Sys2Proof.Machine
end

