-- ==== Sys2Proof/Syntax.lean ====
section
/-! DEFINITION. The rows of spec/opcode_table.json as one inductive type, and the signals of a request. -/

namespace Sys2Proof

/-- One constructor per row of the opcode table: eight requests (30_encoding.md R71, R72), then the six frame
rows (R82 (b)), which describe words on the `FRM` interface and are not operations of the host. -/
inductive Instr where
  /-- `BUILD cmd, plen, pay[0..16]`, 40_frame_assembly.md R103. -/
  | build (cmd : Byte) (plen : BitVec 5) (pay : Vector Byte 17)
  /-- `SEGCLR`, 41_segment_mask.md R121. -/
  | segclr
  /-- `SEGADD idx`, two's complement index, 41_segment_mask.md R122. -/
  | segadd (idx : Byte)
  /-- `SEGRD`, 41_segment_mask.md R123. -/
  | segrd
  /-- `CHUNK cmd, hlen, hdr[0..13], elen, maxc`, 42_chunker.md R142. -/
  | chunk (cmd : Byte) (hlen : BitVec 4) (hdr : Vector Byte 14) (elen : BitVec 16) (maxc : Byte)
  /-- `POWER on`, 43_command_formatters.md R171. -/
  | power (on : Bool)
  /-- `BRIGHT pct`, two's complement percent, 43_command_formatters.md R172. -/
  | bright (pct : Byte)
  /-- `COLOR r, g, b, segsel`, 43_command_formatters.md R174. -/
  | color (r g b : Byte) (segsel : Bool)
  /-- Row `FRAME`: any frame, 30_encoding.md R74. -/
  | frame (command : Byte) (payload : Vector Byte 17)
  /-- Row `FRAME_POWER`, 30_encoding.md R76. -/
  | framePower (on : Bool)
  /-- Row `FRAME_BRIGHT`, 30_encoding.md R76. -/
  | frameBright (level : Byte)
  /-- Row `FRAME_COLOR_ALL`: mode 0x02 with the fixed mask, 30_encoding.md R76. -/
  | frameColorAll (r g b : Byte)
  /-- Row `FRAME_COLOR_SEG`: mode 0x0B; bit 7 of `segHigh` is a fixed 0, 30_encoding.md R76. -/
  | frameColorSeg (r g b segLow : Byte) (segHigh : BitVec 7)
  /-- Row `FRAME_CHUNK`: sequence index, total, then header, data and padding, 30_encoding.md R77. -/
  | frameChunk (command seq total : Byte) (body : Vector Byte 15)
  deriving DecidableEq, Repr

/-- One transfer on `REQ`: the selector and every operand signal, "all present in every request"
(30_encoding.md R70, R72). -/
structure Request where
  op     : BitVec 4
  cmd    : Byte
  plen   : BitVec 5
  pay    : BitVec 136
  idx    : Byte
  hlen   : BitVec 4
  hdr    : BitVec 112
  elen   : BitVec 16
  maxc   : Byte
  on     : BitVec 1
  pct    : Byte
  r      : Byte
  g      : Byte
  b      : Byte
  segsel : BitVec 1
  deriving DecidableEq, Repr

/-- A request with every signal low. -/
def Request.low : Request :=
  { op := 0, cmd := 0, plen := 0, pay := 0, idx := 0, hlen := 0, hdr := 0, elen := 0, maxc := 0,
    on := 0, pct := 0, r := 0, g := 0, b := 0, segsel := 0 }

/-- The two encodings of the block: what a host asks with and what the block puts out (30_encoding.md). -/
inductive Encoding where
  | request (r : Request)
  | frame (f : Frame)
  deriving DecidableEq, Repr

/-- Why a word has no instruction. -/
inductive DecodeError where
  /-- A reserved `req_op` (30_encoding.md R79). -/
  | reservedSelector (op : BitVec 4)
  /-- Byte 0 is not 0x33 (30_encoding.md R80). -/
  | badPrefix (byte : Byte)
  /-- The exclusive OR of the 20 bytes, not 0 (30_encoding.md R80). -/
  | badChecksum (residue : Byte)
  deriving DecidableEq, Repr

/-- Whether a row is one of the eight operations a host may request (30_encoding.md R82 (a)). -/
def Instr.isRequest : Instr → Bool
  | .build _ _ _ => true
  | .segclr => true
  | .segadd _ => true
  | .segrd => true
  | .chunk _ _ _ _ _ => true
  | .power _ => true
  | .bright _ => true
  | .color _ _ _ _ => true
  | .frame _ _ => false
  | .framePower _ => false
  | .frameBright _ => false
  | .frameColorAll _ _ _ => false
  | .frameColorSeg _ _ _ _ _ => false
  | .frameChunk _ _ _ _ => false

end Sys2Proof
end

