-- ==== Sys2Proof/Machine/State.lean ====
section
/-! DEFINITION. The state of `frame_builder`: its ten registers, and beside them the host's payload, the recorded
histories, the parameters and the pending events (10_state.md R20, R28, R36). -/

namespace Sys2Proof.Machine

/-- The status of a response, named by the error taxonomy (30_encoding.md R73). Code 7 is reserved and never
produced; `unknownSceneName` and `unknownMusicMode` keep their place in the numbering and are raised by nothing
in this hardware (60_exceptions.md R190; log entry 22). -/
inductive Status where
  | ok
  | invalidPayloadLength
  | invalidValueRange
  | invalidSegmentIndex
  | unknownSceneName
  | unknownMusicMode
  | payloadTooLarge
  deriving DecidableEq, Repr

/-- One response on `RSP` (10_state.md R31, 30_encoding.md R73). -/
structure Response where
  status : Status
  low    : Byte
  high   : Byte
  total  : Byte
  deriving DecidableEq, Repr

/-- What the agents around the block do next, one entry per event (10_state.md R35, 70_reset_and_hazards.md R213;
log entry 1). -/
inductive Input where
  /-- The host offers a request and holds it until it is taken (10_state.md R32). -/
  | request (r : Request)
  /-- The host offers nothing during this step (60_exceptions.md R202). -/
  | idle
  /-- `frm_ready` or `ep_ack` is held low during this step (10_state.md R33; log entry 11). -/
  | stall
  /-- The host writes one byte of its own memory at an offset of `EP` (70_reset_and_hazards.md R213, R214; log entry 4). -/
  | placeByte (off : Offset) (b : Byte)
  /-- `rst` is asserted (70_reset_and_hazards.md R210). -/
  | reset
  deriving DecidableEq, Repr

/-- The machine. The first ten fields are "the complete architectural state of the block" (10_state.md R20); the
others are what rule R28 calls parameters of the step relation or recorded history. -/
structure State where
  /-- `SEG_LOW`, mask bits of segments 0 to 7. -/
  segLow   : Byte
  /-- `SEG_HIGH`, mask bits of segments 8 to 14. -/
  segHigh  : Byte
  /-- `SEG_ERR`, sticky (R23). -/
  segErr   : Bool
  /-- `CH_ACTIVE`, driven out as `busy` (R24, R31). -/
  chActive : Bool
  /-- `CH_CMD`. -/
  chCmd    : Byte
  /-- `CH_HLEN`. -/
  chHlen   : BitVec 4
  /-- `CH_HDR[0..13]`. -/
  chHdr    : Vector Byte 14
  /-- `CH_LEN`. -/
  chLen    : BitVec 16
  /-- `CH_TOTAL`. -/
  chTotal  : Byte
  /-- `CH_SEQ` (R26). -/
  chSeq    : Byte
  /-- `EP`, the caller's effect payload, in the canonical form of `Memory.wf` (20_memory.md R50). -/
  ep       : List Host.Cell
  /-- The offsets put on `ep_addr` so far, oldest first (20_memory.md R54; log entry 5). -/
  epReads  : List Offset
  /-- `OUT`, oldest first (R36). -/
  out      : List Frame
  /-- `RSPS`, oldest first (R36). -/
  rsps     : List Response
  /-- The events to come, next first (log entry 1). -/
  inputs   : List Input
  /-- The parameters (R28 (a); log entry 2). -/
  cfg      : Config
  deriving DecidableEq, Repr

/-- Why the machine stops with a fault. -/
inductive Fault where
  /-- Raised by the sequencer emission where the registers are outside rule R30, so that rule R143 is not defined:
  "a run that begins anywhere else is outside the rules" (70_reset_and_hazards.md R212). Safe: no run from reset
  meets it (log entry 10). -/
  | sequencerOutsideRules
  deriving DecidableEq, Repr

/-- Why the machine has no answer. -/
inductive Refusal where
  /-- Raised by an arm of `exec` for an instruction that has no meaning; no arm does. Safe. -/
  | notModelled (mnemonic : String)
  /-- Raised by the fetch of a request whose selector is reserved: "a model refuses a request that carries one"
  (30_encoding.md R79). Safe (log entry 14). -/
  | reservedSelector (op : BitVec 4)
  /-- Raised by a frame row whose frame the block is not about to put on `FRM`: "The frame rows are not operations"
  (30_encoding.md R82). Safe (log entry 8). -/
  | frameNotOffered
  deriving DecidableEq, Repr

/-- Right after reset: every register zero (10_state.md R29), nothing recorded, nothing pending, nothing placed in
`EP`, the default parameters (log entries 2, 3, 5, 13). -/
def State.reset : State :=
  { segLow := 0x00, segHigh := 0x00, segErr := false, chActive := false, chCmd := 0x00, chHlen := 0,
    chHdr := Vector.replicate 14 0x00, chLen := 0, chTotal := 0x00, chSeq := 0x00,
    ep := [], epReads := [], out := [], rsps := [], inputs := [], cfg := defaultConfig }

end Sys2Proof.Machine
end

