-- ==== Sys2Proof/Machine/Flags.lean ====
section
/-! DEFINITION. The two flags of the block, `SEG_ERR` and `CH_ACTIVE`, and the signals driven from them
(10_state.md R23, R24, R31, R32). There are no condition codes. -/

namespace Sys2Proof.Machine

/-- `SEG_ERR <- 1`, by a SEGADD with an invalid index (R23). -/
def setSegErr (s : State) : State := { s with segErr := true }

/-- `SEG_ERR <- 0`, by SEGCLR (R23). -/
def clearSegErr (s : State) : State := { s with segErr := false }

/-- `CH_ACTIVE <- 1`, by an accepted CHUNK (R24). -/
def setActive (s : State) : State := { s with chActive := true }

/-- `CH_ACTIVE <- 0`, by the emission of the last frame (R24). -/
def clearActive (s : State) : State := { s with chActive := false }

/-- The signal `busy`, equal to `CH_ACTIVE` (R31). -/
def busy (s : State) : Bool := s.chActive

/-- The signal `req_ready`: 1 exactly when `CH_ACTIVE = 0`, steps being atomic (R32). -/
def reqReady (s : State) : Bool := !s.chActive

end Sys2Proof.Machine
end

