-- ==== Sys2Proof/Machine/Frame.lean ====
section
/-! DEFINITION. Units xor_checksum_tree and frame_builder: the checksum, `build`, the payload layouts and the
160-bit word of a frame (40_frame_assembly.md, 30_encoding.md, 20_memory.md). -/

namespace Sys2Proof.Machine

/-- `xor_all(s)`, the running XOR from offset 0 (00_scope.md R8). `xor19` is this on 19 bytes (R100). -/
def xorAll (s : List Byte) : Byte := s.foldl (· ^^^ ·) 0

/-- One level of the reduction: neighbours are joined, an odd last byte passes through (R101). -/
def xorLevel : List Byte → List Byte
  | a :: b :: rest => (a ^^^ b) :: xorLevel rest
  | [a] => [a]
  | [] => []

/-- The xor_checksum_tree: five levels, 19 inputs to one output (R101). -/
def xorTree (b : List Byte) : Byte :=
  (xorLevel (xorLevel (xorLevel (xorLevel (xorLevel b))))).headD 0

/-- A payload of at most 17 bytes padded "on the right" with zero bytes (R103, R105). -/
def padPayload (s : List Byte) : Vector Byte 17 :=
  ⟨((s ++ List.replicate 17 0x00).take 17).toArray, by simp⟩

/-- The 20 bytes around a full payload: prefix, command, payload, checksum over the first 19 (30_encoding.md R74). -/
def sealFrame (c : Byte) (p : Vector Byte 17) : Frame :=
  ⟨([framePrefix, c] ++ p.toList ++ [xorAll ([framePrefix, c] ++ p.toList)]).toArray, by simp⟩

/-- `build(c, s)` of R105, "undefined for `len(s) > 17`": FrameBuilder's one failure is the answer none. -/
def build (c : Byte) (s : List Byte) : Option Frame :=
  if s.length ≤ payloadLen then some (sealFrame c (padPayload s)) else none

/-- "A 20-byte sequence `f` is a well-formed frame of this block exactly when" (30_encoding.md R80). -/
def frameOk (f : Frame) : Bool := f[0] == framePrefix && xorAll f.toList == 0

/-- Payload of a power frame (30_encoding.md R76). -/
def powerPayload (on : Bool) : List Byte := [if on then 0x01 else 0x00]

/-- Payload of a brightness frame (30_encoding.md R76). -/
def brightPayload (level : Byte) : List Byte := [level]

/-- Payload of a colour frame (30_encoding.md R76). -/
def colorPayload (mode r g b low high : Byte) : List Byte := [mode, r, g, b, low, high, 0xAE, 0x54]

/-- The lanes of a wire, lane 0 in the most significant byte (30_encoding.md R72). -/
def lanesOf (n : Nat) (w : BitVec (8 * n)) : Vector Byte n :=
  Vector.ofFn fun i => w.extractLsb' (8 * (n - 1 - i.val)) 8

/-- The number whose base-256 digits, most significant first, are the bytes. -/
def bytesNat (s : List Byte) : Nat := s.foldl (fun a b => 256 * a + b.toNat) 0

/-- The wire that carries the lanes, lane 0 in the most significant byte (30_encoding.md R72). -/
def wireOf {n : Nat} (v : Vector Byte n) : BitVec (8 * n) := BitVec.ofNat (8 * n) (bytesNat v.toList)

/-- `frm_data`: byte `k` in bits `[159 - 8k : 152 - 8k]` (20_memory.md R51). -/
def frameWord (f : Frame) : BitVec 160 := wireOf f

/-- The bytes of a 160-bit word (20_memory.md R51). -/
def frameOfWord (w : BitVec 160) : Frame := lanesOf 20 w

/-- A hexadecimal digit, `0-9A-F` (20_memory.md R53). -/
def hexDigit (n : Nat) : Char :=
  if n < 10 then Char.ofNat (48 + n) else Char.ofNat (55 + n)

/-- Two digits of a byte, high nibble first (20_memory.md R53). -/
def hexByte (b : Byte) : List Char := [hexDigit (b.toNat / 16), hexDigit (b.toNat % 16)]

/-- The 40 upper-case hexadecimal characters of a frame (20_memory.md R53). -/
def frameHex (f : Frame) : List Char := f.toList.flatMap hexByte

end Sys2Proof.Machine
end

