-- ==== Sys2Proof/Machine/Ops.lean ====
section
/-! DEFINITION. The shared operations over the payload memory, the registers and the histories, with the delivery
of an error, the block's only exception (00_scope.md R9, 60_exceptions.md R191). Nothing returns from an error:
"there is nothing to restore" (60_exceptions.md R196). -/

namespace Sys2Proof.Machine

/-- What an offset of `EP` that the host has not written reads as (log entry 3). -/
def Memory.unwritten : Byte := 0x00

/-- `MemRead(EP, off, 1)` (00_scope.md R9, 20_memory.md R54). -/
def Memory.read : List Host.Cell → Nat → Byte
  | [], _ => Memory.unwritten
  | (k, c) :: rest, a => if k = a then c else Memory.read rest a

/-- A byte placed by the host; the canonical form is kept by leaving out what an unlisted offset reads as. -/
def Memory.write : List Host.Cell → Nat → Byte → List Host.Cell
  | [], a, b => if b = Memory.unwritten then [] else [(a, b)]
  | (k, c) :: rest, a, b =>
    if a < k then (if b = Memory.unwritten then (k, c) :: rest else (a, b) :: (k, c) :: rest)
    else if a = k then (if b = Memory.unwritten then rest else (a, b) :: rest)
    else (k, c) :: Memory.write rest a b

/-- The canonical form: offsets strictly rising and inside the 16-bit space, no entry equal to what an unlisted
offset reads as. -/
abbrev Memory.wf (m : List Host.Cell) : Prop :=
  (m.map Prod.fst).Pairwise (· < ·) ∧ ∀ c ∈ m, c.1 < 65536 ∧ c.2 ≠ Memory.unwritten

/-- `req_status` codes (30_encoding.md R73). -/
def statusCode : Status → BitVec 3
  | .ok => 0
  | .invalidPayloadLength => 1
  | .invalidValueRange => 2
  | .invalidSegmentIndex => 3
  | .unknownSceneName => 4
  | .unknownMusicMode => 5
  | .payloadTooLarge => 6

/-- `emit(f)`: appends the frame to `OUT` (00_scope.md R9, 10_state.md R36). -/
def emit (f : Frame) (s : State) : State := { s with out := s.out ++ [f] }

/-- Completes a request with one response (10_state.md R32, 30_encoding.md R73). -/
def respond (r : Response) (s : State) : State := { s with rsps := s.rsps ++ [r] }

/-- The response of an operation that succeeds and returns nothing: result fields 0x00 (30_encoding.md R73). -/
def okResponse : Response := { status := .ok, low := 0x00, high := 0x00, total := 0x00 }

/-- The response of an error: its code, result fields 0x00 (60_exceptions.md R191). -/
def errorResponse (e : Status) : Response := { status := e, low := 0x00, high := 0x00, total := 0x00 }

/-- `respond(OK)`. -/
def respondOk (s : State) : State := respond okResponse s

/-- `raise <Error>`: the error is delivered in the response; nothing is saved, no mode changes, no control is
transferred (00_scope.md R9, 60_exceptions.md R191, R195). -/
def raise (e : Status) (s : State) : State := respond (errorResponse e) s

/-- A request has its effect only while `req_ready = 1`; while `CH_ACTIVE = 1` the host is held and nothing
happens (10_state.md R32, R35, 42_chunker.md R152; log entry 7). -/
def whenReady (s done : State) : Host.Outcome State Fault Refusal :=
  .next (if s.chActive then s else done)

/-- "Delegates to FrameBuilder; propagates its failures": emit `build(c, p)` and answer OK, or raise FrameBuilder's
one error (40_frame_assembly.md R103, R105, 43_command_formatters.md R174). -/
def emitBuilt (c : Byte) (p : List Byte) (s : State) : State :=
  match build c p with
  | some f => respondOk (emit f s)
  | none => raise .invalidPayloadLength s

/-- `SEG_LOW <- low; SEG_HIGH <- high` (41_segment_mask.md R121, R122). -/
def writeMask (low high : Byte) (s : State) : State := { s with segLow := low, segHigh := high }

/-- The `CH_*` registers of an accepted CHUNK, but for `CH_ACTIVE` (42_chunker.md R142). -/
def loadSequencer (cmd : Byte) (hlen : BitVec 4) (hdr : Vector Byte 14) (len : BitVec 16) (total : Byte)
    (s : State) : State :=
  { s with chCmd := cmd, chHlen := hlen, chHdr := hdr, chLen := len, chTotal := total, chSeq := 0 }

/-- `CH_SEQ <- v` (42_chunker.md R143). -/
def writeSeq (v : Byte) (s : State) : State := { s with chSeq := v }

/-- Records reads on `EPM`, in the order given (20_memory.md R54). -/
def logReads (offs : List Offset) (s : State) : State := { s with epReads := s.epReads ++ offs }

/-- The host writes one byte of its own memory; no register of the block changes (70_reset_and_hazards.md R213). -/
def hostWrite (off : Offset) (b : Byte) (s : State) : State := { s with ep := Memory.write s.ep off.toNat b }

/-- The events left after one was consumed. -/
def withInputs (rest : List Input) (s : State) : State := { s with inputs := rest }

/-- The reset step: every register of R20 takes its value of R29; `EP`, `OUT` and what was recorded stay
(70_reset_and_hazards.md R210). -/
def resetRegisters (s : State) : State :=
  { s with
    segLow := 0x00, segHigh := 0x00, segErr := false, chActive := false, chCmd := 0x00, chHlen := 0,
    chHdr := Vector.replicate 14 0x00, chLen := 0, chTotal := 0x00, chSeq := 0x00 }

end Sys2Proof.Machine
end

