-- ==== Sys2Proof/Machine/Operands.lean ====
section
/-! DEFINITION. How operands become values (30_encoding.md R78) and the slicing arithmetic of the chunker
(42_chunker.md R140, R141). -/

namespace Sys2Proof.Machine

/-- Payload lanes 0 to `plen - 1`; the lanes above are ignored (30_encoding.md R78 (a), 40_frame_assembly.md R104). -/
def payloadLanes (plen : BitVec 5) (pay : Vector Byte 17) : List Byte := pay.toList.take plen.toNat

/-- Header lanes with 0x00 in those at `H` and above (30_encoding.md R78 (b), 42_chunker.md R142). -/
def headerLanes (hlen : BitVec 4) (hdr : Vector Byte 14) : Vector Byte 14 :=
  Vector.ofFn fun i => if i.val < hlen.toNat then hdr[i] else 0x00

/-- `signed(v)` of `idx` and `pct`, -128 to 127 (00_scope.md R7, 30_encoding.md R78 (c)). -/
abbrev signed (v : Byte) : Int := v.toInt

/-- `ceil_div(a, b)` for `b > 0` (00_scope.md R7). -/
def ceilDiv (a b : Nat) : Nat := (a + (b - 1)) / b

/-- `slice(s, i, j)`: indices `i` to `j - 1` (00_scope.md R8). -/
def slice (s : List Byte) (i j : Nat) : List Byte := (s.drop i).take (j - i)

/-- The data budget of a frame, `S = 15 - H` (42_chunker.md R140). -/
abbrev sliceSize (h : Nat) : Nat := 15 - h

/-- `n_k = min(S, L - k*S)` (42_chunker.md R141). -/
def sliceLen (size len k : Nat) : Nat := min size (len - k * size)

/-- The `EP` offsets of slice `k`, ascending (42_chunker.md R141, R143). -/
def sliceOffsets (size len k : Nat) : List Nat := (List.range (sliceLen size len k)).map (k * size + ·)

end Sys2Proof.Machine
end

