-- ==== Sys2Proof/Machine/Chunker.lean ====
section
/-! DEFINITION. Unit multi_packet_chunker: the operation `CHUNK`, the sequencer emission and the list function
(42_chunker.md). -/

namespace Sys2Proof.Machine

/-- `CHUNK cmd, hlen, hdr[0..13], elen, maxc` (R142): the three checks in the order written, then the load. -/
def execChunk (cmd : Byte) (hlen : BitVec 4) (hdr : Vector Byte 14) (elen : BitVec 16) (maxc : Byte) (s : State) :
    Host.Outcome State Fault Refusal :=
  let total := ceilDiv elen.toNat (sliceSize hlen.toNat)
  whenReady s
    (if elen.toNat = 0 then respondOk s
     else if headerMax < hlen.toNat then raise .invalidPayloadLength s
     else if maxc.toNat < total then raise .payloadTooLarge s
     else
       respond { status := .ok, low := 0x00, high := 0x00, total := BitVec.ofNat 8 total }
         (setActive (loadSequencer cmd hlen (headerLanes hlen hdr) elen (BitVec.ofNat 8 total) s)))

/-- The payload of chunk frame `k` of `total` with caller header `h` and data `d` (30_encoding.md R77). -/
def chunkFramePayload (base k : Nat) (total : Byte) (h d : List Byte) : List Byte :=
  [BitVec.ofNat 8 (base + k), total] ++ h ++ d

/-- Where rule R143 is defined: the sequencer is active and holds what rule R30 says of it, as far as the emission
depends on it (10_state.md R30; log entry 10). -/
abbrev SequencerReady (s : State) : Prop :=
  s.chActive = true ∧ s.chHlen.toNat ≤ headerMax ∧ s.chSeq.toNat < s.chTotal.toNat ∧
    s.chSeq.toNat * sliceSize s.chHlen.toNat < s.chLen.toNat

/-- The `EP` offsets the next emission reads (R143, 20_memory.md R54). -/
def sequencerOffsets (s : State) : List Nat :=
  sliceOffsets (sliceSize s.chHlen.toNat) s.chLen.toNat s.chSeq.toNat

/-- The payload of the next emission (R143). -/
def sequencerPayload (s : State) : List Byte :=
  chunkFramePayload (seqBaseNat s.cfg.seqBase) s.chSeq.toNat s.chTotal (s.chHdr.toList.take s.chHlen.toNat)
    ((sequencerOffsets s).map (Memory.read s.ep))

/-- `CH_SEQ <- k + 1`, and `CH_ACTIVE <- 0` with the last frame (R143). -/
def advanceSequencer (s : State) : State :=
  if s.chSeq.toNat + 1 = s.chTotal.toNat then clearActive (writeSeq (s.chSeq + 1) s)
  else writeSeq (s.chSeq + 1) s

/-- The sequencer emission (R143): read a slice of `EP`, emit its frame, advance. It produces no response. -/
def sequencerEmit (s : State) : Host.Outcome State Fault Refusal :=
  if SequencerReady s then
    match build s.chCmd (sequencerPayload s) with
    | some f => .next (advanceSequencer (emit f (logReads ((sequencerOffsets s).map (BitVec.ofNat 16)) s)))
    | none => .fault .sequencerOutsideRules
  else .fault .sequencerOutsideRules

/-- `chunk(c, h, P)` with `SEQ_BASE` as argument (R145); no value where rule R145 leaves it undefined. -/
def chunkFrames (base : Nat) (c : Byte) (h p : List Byte) : Option (List Frame) :=
  let size := sliceSize h.length
  let total := ceilDiv p.length size
  if h.length ≤ headerMax ∧ total ≤ 255 then
    (List.range total).mapM fun k =>
      build c (chunkFramePayload base k (BitVec.ofNat 8 total) h
        (slice p (k * size) (min ((k + 1) * size) p.length)))
  else none

end Sys2Proof.Machine
end

