-- ==== Sys2Proof/Machine/Formatters.lean ====
section
/-! DEFINITION. The command formatters `POWER`, `BRIGHT`, `COLOR` (43_command_formatters.md). -/

namespace Sys2Proof.Machine

/-- `level(q)` for `q` in 0 to 100, in integers (R173). -/
def level (mode : RoundMode) (q : Nat) : Nat :=
  match mode with
  | .halfUp => (255 * q + 50) / 100
  | .halfEven =>
    if 255 * q % 100 = 50 then 255 * q / 100 + 255 * q / 100 % 2 else (255 * q + 50) / 100

/-- `POWER on` (R171). -/
def execPower (on : Bool) (s : State) : Host.Outcome State Fault Refusal :=
  whenReady s (emitBuilt cmdPower (powerPayload on) s)

/-- `BRIGHT pct` (R172). -/
def execBright (pct : Byte) (s : State) : Host.Outcome State Fault Refusal :=
  whenReady s
    (if signed pct < 0 ∨ 100 < signed pct then raise .invalidValueRange s
     else emitBuilt cmdBright (brightPayload (BitVec.ofNat 8 (level s.cfg.roundMode (signed pct).toNat))) s)

/-- `COLOR r, g, b, segsel` (R174, R175, R176): the fixed mask in the all-segments mode, the accumulator in the
segment-targeted one. -/
def execColor (r g b : Byte) (segsel : Bool) (s : State) : Host.Outcome State Fault Refusal :=
  whenReady s
    (if segsel then
       (if s.segErr then raise .invalidSegmentIndex s
        else emitBuilt cmdColor (colorPayload modeSegment r g b s.segLow s.segHigh) s)
     else emitBuilt cmdColor (colorPayload modeAll r g b maskAllLow maskAllHigh) s)

end Sys2Proof.Machine
end

