-- ==== Sys2Proof/Machine/FrameBuilder.lean ====
section
/-! DEFINITION. Unit frame_builder: the operation `BUILD` (40_frame_assembly.md). -/

namespace Sys2Proof.Machine

/-- `BUILD cmd, plen, pay[0..16]` (R103, R104, R109). -/
def execBuild (cmd : Byte) (plen : BitVec 5) (pay : Vector Byte 17) (s : State) :
    Host.Outcome State Fault Refusal :=
  whenReady s
    (if payloadLen < plen.toNat then raise .invalidPayloadLength s
     else emitBuilt cmd (payloadLanes plen pay) s)

end Sys2Proof.Machine
end

