-- ==== Sys2Proof/WellFormed.lean ====
section
/-! DEFINITION. Which terms are instructions of the block, and which requests a host may issue. -/

namespace Sys2Proof

/-- A host "must not issue a reserved req_op" (30_encoding.md R79, 70_reset_and_hazards.md R213). -/
def Request.legal (r : Request) : Bool :=
  r.op == 0x1 || r.op == 0x2 || r.op == 0x3 || r.op == 0x4 || r.op == 0x5 ||
    r.op == 0x8 || r.op == 0x9 || r.op == 0xA

/-- Sequence index and total of a chunk frame: there is a frame count of at least 1, and the index is
`SEQ_BASE + k` with `k` below it for a legal `SEQ_BASE` of 0 or 1 (30_encoding.md R77; log entry 21). -/
def chunkFieldsOk (seq total : Byte) : Bool :=
  decide (1 ≤ total.toNat) && decide (seq.toNat ≤ total.toNat)

/-- Every request operand at every value is a legal encoding (30_encoding.md R79 (b)); a chunk frame
has the fields rule R77 gives it. -/
def Instr.wellFormed : Instr → Bool
  | .build _ _ _ => true
  | .segclr => true
  | .segadd _ => true
  | .segrd => true
  | .chunk _ _ _ _ _ => true
  | .power _ => true
  | .bright _ => true
  | .color _ _ _ _ => true
  | .frame _ _ => true
  | .framePower _ => true
  | .frameBright _ => true
  | .frameColorAll _ _ _ => true
  | .frameColorSeg _ _ _ _ _ => true
  | .frameChunk _ seq total _ => chunkFieldsOk seq total

end Sys2Proof
end

