-- ==== Sys2Proof/Decode.lean ====
section
/-! DEFINITION. Decoding and encoding of requests (30_encoding.md R70 to R72, R79) and of frames (R74 to R77,
R80, R82). -/

namespace Sys2Proof

open Sys2Proof.Machine

/-- Look up `req_op` and pull the operands its format names; every other signal is ignored
(30_encoding.md R70, R71, R72, R82 (a)). -/
def decodeRequest (q : Request) : Except DecodeError Instr :=
  match q.op.toNat with
  | 0x1 => .ok (.build q.cmd q.plen (lanesOf 17 q.pay))
  | 0x2 => .ok .segclr
  | 0x3 => .ok (.segadd q.idx)
  | 0x4 => .ok .segrd
  | 0x5 => .ok (.chunk q.cmd q.hlen (lanesOf 14 q.hdr) q.elen q.maxc)
  | 0x8 => .ok (.power (q.on == 1))
  | 0x9 => .ok (.bright q.pct)
  | 0xA => .ok (.color q.r q.g q.b (q.segsel == 1))
  | _ => .error (.reservedSelector q.op)

/-- Whether a frame has a row's fixed bits: `match` and `mask` of opcode_table.json over `frm_data[159:0]`,
compared byte by byte. -/
def rowMatches (mask value : BitVec 160) (f : Frame) : Bool :=
  List.zipWith (· &&& ·) f.toList (frameOfWord mask).toList == (frameOfWord value).toList

/-- Row `FRAME_POWER` of opcode_table.json. -/
def matchesPower : Frame → Bool :=
  rowMatches 0xFFFFFEFFFFFFFFFFFFFFFFFFFFFFFFFFFFFFFF00 0x3301000000000000000000000000000000000000

/-- Row `FRAME_BRIGHT` of opcode_table.json. -/
def matchesBright : Frame → Bool :=
  rowMatches 0xFFFF00FFFFFFFFFFFFFFFFFFFFFFFFFFFFFFFF00 0x3304000000000000000000000000000000000000

/-- Row `FRAME_COLOR_ALL` of opcode_table.json. -/
def matchesColorAll : Frame → Bool :=
  rowMatches 0xFFFFFF000000FFFFFFFFFFFFFFFFFFFFFFFFFF00 0x33050200000000FFAE5400000000000000000000

/-- Row `FRAME_COLOR_SEG` of opcode_table.json. -/
def matchesColorSeg : Frame → Bool :=
  rowMatches 0xFFFFFF0000000080FFFFFFFFFFFFFFFFFFFFFF00 0x33050B0000000000AE5400000000000000000000

/-- Rows `FRAME` and `FRAME_CHUNK` of opcode_table.json, which have the same fixed bits. -/
def matchesFrame : Frame → Bool :=
  rowMatches 0xFF00000000000000000000000000000000000000 0x3300000000000000000000000000000000000000

/-- Bytes 2 to 18 of a frame (30_encoding.md R74). -/
def framePayload (f : Frame) : Vector Byte 17 := Vector.ofFn fun i => f[i.val + 2]

/-- Bytes 4 to 18 of a frame: header, data and padding of a chunk frame (30_encoding.md R77). -/
def frameBody (f : Frame) : Vector Byte 15 := Vector.ofFn fun i => f[i.val + 4]

/-- The fields of a frame as row `FRAME` gives them. -/
def readFrame (f : Frame) : Instr := .frame f[1] (framePayload f)

/-- The fields of a frame as row `FRAME_CHUNK` gives them. -/
def readChunk (f : Frame) : Instr := .frameChunk f[1] f[2] f[3] (frameBody f)

/-- The rows with a fixed payload layout that a frame matches (30_encoding.md R76). -/
def specificReadings (f : Frame) : List Instr :=
  (if matchesPower f then [Instr.framePower (f[2] == 0x01)] else []) ++
  (if matchesBright f then [Instr.frameBright f[2]] else []) ++
  (if matchesColorAll f then [Instr.frameColorAll f[3] f[4] f[5]] else []) ++
  (if matchesColorSeg f then [Instr.frameColorSeg f[3] f[4] f[5] f[6] (f[7].setWidth 7)] else [])

/-- The two rows that fix the prefix alone, which every frame matches; `FRAME_CHUNK` comes first for the command byte
reserved for effects with sequence index and total in range (30_encoding.md R77, R82; log entry 9). -/
def generalReadings (f : Frame) : List Instr :=
  if matchesFrame f then
    (if f[1] = cmdEffect ∧ (readChunk f).wellFormed = true then [readChunk f, readFrame f]
     else [readFrame f, readChunk f])
  else []

/-- Every row that a frame matches, with its fields, the more specific first: "The frame rows overlap by design"
(30_encoding.md R82). -/
def frameReadings (f : Frame) : List Instr := specificReadings f ++ generalReadings f

/-- A frame decoder looks up the row and checks `xor_all = 0` separately (30_encoding.md R80, R82). -/
def decodeFrame (f : Frame) : Except DecodeError Instr :=
  if f[0] ≠ framePrefix then .error (.badPrefix f[0])
  else if xorAll f.toList ≠ 0 then .error (.badChecksum (xorAll f.toList))
  else .ok ((frameReadings f).headD (readFrame f))

/-- The decoder of both encodings. -/
def decode : Encoding → Except DecodeError Instr
  | .request q => decodeRequest q
  | .frame f => decodeFrame f

/-- One bit as a signal. -/
def bitOf (b : Bool) : BitVec 1 := if b then 1 else 0

/-- The frame of a chunk row: sequence index, total, then the 15 bytes of header, data and padding
(30_encoding.md R77). -/
def chunkPayload (seq total : Byte) (body : Vector Byte 15) : List Byte := [seq, total] ++ body.toList

/-- The encoder: selector and operand signals of a request, signals its format does not name low (log entry 17);
the 20 bytes of a frame row (30_encoding.md R71, R72, R74 to R77). -/
def encode : Instr → Encoding
  | .build cmd plen pay => .request { Request.low with op := 0x1, cmd := cmd, plen := plen, pay := wireOf pay }
  | .segclr => .request { Request.low with op := 0x2 }
  | .segadd idx => .request { Request.low with op := 0x3, idx := idx }
  | .segrd => .request { Request.low with op := 0x4 }
  | .chunk cmd hlen hdr elen maxc =>
    .request { Request.low with op := 0x5, cmd := cmd, hlen := hlen, hdr := wireOf hdr, elen := elen, maxc := maxc }
  | .power on => .request { Request.low with op := 0x8, on := bitOf on }
  | .bright pct => .request { Request.low with op := 0x9, pct := pct }
  | .color r g b segsel => .request { Request.low with op := 0xA, r := r, g := g, b := b, segsel := bitOf segsel }
  | .frame command payload => .frame (sealFrame command payload)
  | .framePower on => .frame (sealFrame cmdPower (padPayload (powerPayload on)))
  | .frameBright level => .frame (sealFrame cmdBright (padPayload (brightPayload level)))
  | .frameColorAll r g b =>
    .frame (sealFrame cmdColor (padPayload (colorPayload modeAll r g b maskAllLow maskAllHigh)))
  | .frameColorSeg r g b segLow segHigh =>
    .frame (sealFrame cmdColor (padPayload (colorPayload modeSegment r g b segLow (segHigh.setWidth 8))))
  | .frameChunk command seq total body => .frame (sealFrame command (padPayload (chunkPayload seq total body)))

/-- A request whose signals are taken from one word, the selector in bits `[3:0]` and the operand signals above
it in the order of 30_encoding.md R72: the model's own packing, since "this spec defines no packing of a whole
request into one word" (R82; log entry 6). -/
def requestOfWord (w : Nat) : Request :=
  { op     := BitVec.ofNat 4 w
    cmd    := BitVec.ofNat 8 (w >>> 4)
    plen   := BitVec.ofNat 5 (w >>> 12)
    pay    := BitVec.ofNat 136 (w >>> 17)
    idx    := BitVec.ofNat 8 (w >>> 153)
    hlen   := BitVec.ofNat 4 (w >>> 161)
    hdr    := BitVec.ofNat 112 (w >>> 165)
    elen   := BitVec.ofNat 16 (w >>> 277)
    maxc   := BitVec.ofNat 8 (w >>> 293)
    on     := BitVec.ofNat 1 (w >>> 301)
    pct    := BitVec.ofNat 8 (w >>> 302)
    r      := BitVec.ofNat 8 (w >>> 310)
    g      := BitVec.ofNat 8 (w >>> 318)
    b      := BitVec.ofNat 8 (w >>> 326)
    segsel := BitVec.ofNat 1 (w >>> 334) }

/-- The encoding a table word stands for: the frame rows have 160 bits, the request rows the selector alone
(log entry 6). -/
def encodingOfWord (nbits w : Nat) : Encoding :=
  if nbits = 160 then .frame (frameOfWord (BitVec.ofNat 160 w)) else .request (requestOfWord w)

/-- The instruction the decoder reads from a word numbered as spec/opcode_table.json numbers it. -/
def decodeTableWord (nbits w : Nat) : Option Instr := (decode (encodingOfWord nbits w)).toOption

end Sys2Proof
end

