-- ==== Sys2Proof/Machine/FramePort.lean ====
section
/-! DEFINITION. The frame rows of the opcode table: a transfer of that frame on `FRM`. They are not operations of
the host (30_encoding.md R82); "the `rule` of each names the operation or step that produces that frame", and the
transfer is "folded into the emitting step" (10_state.md R33, R35). So a frame row IS the block's next step, where
that step emits this frame, and nothing else (log entry 8). -/

namespace Sys2Proof.Machine

/-- The step of a request that can emit a frame (30_encoding.md R75). -/
def producingRequest (i : Instr) (s : State) : Host.Outcome State Fault Refusal :=
  match i with
  | .build cmd plen pay => execBuild cmd plen pay s
  | .power on => execPower on s
  | .bright pct => execBright pct s
  | .color r g b segsel => execColor r g b segsel s
  | .segclr => .refused .frameNotOffered
  | .segadd _ => .refused .frameNotOffered
  | .segrd => .refused .frameNotOffered
  | .chunk _ _ _ _ _ => .refused .frameNotOffered
  | .frame _ _ => .refused .frameNotOffered
  | .framePower _ => .refused .frameNotOffered
  | .frameBright _ => .refused .frameNotOffered
  | .frameColorAll _ _ _ => .refused .frameNotOffered
  | .frameColorSeg _ _ _ _ _ => .refused .frameNotOffered
  | .frameChunk _ _ _ _ => .refused .frameNotOffered

/-- The emission of an active sequence, which can put out a frame (42_chunker.md R143). -/
def producingEmission (s : State) : Host.Outcome State Fault Refusal :=
  if s.chActive then sequencerEmit s else .refused .frameNotOffered

/-- The block's next step, where that step can put a frame on `FRM`: the sequencer emission while `CH_ACTIVE = 1`,
else the request the host offers; a stall, a write of `EP` and a reset put out none (10_state.md R33, R35,
42_chunker.md R152). -/
def producingStep (s : State) : Host.Outcome State Fault Refusal :=
  match s.inputs with
  | [] => producingEmission s
  | .idle :: rest => producingEmission (withInputs rest s)
  | .request r :: rest =>
    if s.chActive then sequencerEmit s
    else
      match decodeRequest r with
      | .ok i => producingRequest i (withInputs rest s)
      | .error _ => .refused .frameNotOffered
  | .stall :: _ => .refused .frameNotOffered
  | .placeByte _ _ :: _ => .refused .frameNotOffered
  | .reset :: _ => .refused .frameNotOffered

/-- The sink takes the frame `f`: the producing step, where it is this frame that the step appends to `OUT`
(10_state.md R33, R36). -/
def takeFrame (f : Frame) (s : State) : Host.Outcome State Fault Refusal :=
  match producingStep s with
  | .next t => if t.out = s.out ++ [f] then .next t else .refused .frameNotOffered
  | .fault e => .fault e
  | .refused _ => .refused .frameNotOffered

/-- Row `FRAME` (30_encoding.md R74). -/
def execFrame (command : Byte) (payload : Vector Byte 17) (s : State) : Host.Outcome State Fault Refusal :=
  takeFrame (sealFrame command payload) s

/-- Row `FRAME_POWER` (30_encoding.md R76, 43_command_formatters.md R171). -/
def execFramePower (on : Bool) (s : State) : Host.Outcome State Fault Refusal :=
  takeFrame (sealFrame cmdPower (padPayload (powerPayload on))) s

/-- Row `FRAME_BRIGHT` (30_encoding.md R76, 43_command_formatters.md R172). -/
def execFrameBright (level : Byte) (s : State) : Host.Outcome State Fault Refusal :=
  takeFrame (sealFrame cmdBright (padPayload (brightPayload level))) s

/-- Row `FRAME_COLOR_ALL` (30_encoding.md R76, 43_command_formatters.md R174). -/
def execFrameColorAll (r g b : Byte) (s : State) : Host.Outcome State Fault Refusal :=
  takeFrame (sealFrame cmdColor (padPayload (colorPayload modeAll r g b maskAllLow maskAllHigh))) s

/-- Row `FRAME_COLOR_SEG` (30_encoding.md R76, 43_command_formatters.md R174). -/
def execFrameColorSeg (r g b segLow : Byte) (segHigh : BitVec 7) (s : State) : Host.Outcome State Fault Refusal :=
  takeFrame (sealFrame cmdColor (padPayload (colorPayload modeSegment r g b segLow (segHigh.setWidth 8)))) s

/-- Row `FRAME_CHUNK` (30_encoding.md R77, 42_chunker.md R143). -/
def execFrameChunk (command seq total : Byte) (body : Vector Byte 15) (s : State) : Host.Outcome State Fault Refusal :=
  takeFrame (sealFrame command (padPayload (chunkPayload seq total body))) s

end Sys2Proof.Machine
end

