-- ==== Sys2Proof/Machine/SegmentMask.lean ====
section
/-! DEFINITION. Unit segment_mask_encoder: the bit mapping, the operations `SEGCLR`, `SEGADD`, `SEGRD` and the list
function (41_segment_mask.md). -/

namespace Sys2Proof.Machine

/-- `seg_bit(i)`, undefined outside 0 to 14 (R120). -/
def segBit (i : Int) : Option (Byte × Byte) :=
  if i < 0 ∨ segments ≤ i then none
  else if i ≤ 7 then some (BitVec.ofNat 8 (1 <<< i.toNat), 0x00)
  else some (0x00, BitVec.ofNat 8 (1 <<< (i.toNat - 8)))

/-- `SEGCLR` (R121). -/
def execSegclr (s : State) : Host.Outcome State Fault Refusal :=
  whenReady s (respondOk (clearSegErr (writeMask 0x00 0x00 s)))

/-- `SEGADD idx` (R122): the one operation whose error changes state. -/
def execSegadd (idx : Byte) (s : State) : Host.Outcome State Fault Refusal :=
  whenReady s
    (match segBit (signed idx) with
     | none => raise .invalidSegmentIndex (setSegErr s)
     | some (l, h) => respondOk (writeMask (s.segLow ^^^ l) (s.segHigh ^^^ h) s))

/-- `SEGRD` (R123): the read is not destructive. -/
def execSegrd (s : State) : Host.Outcome State Fault Refusal :=
  whenReady s
    (if s.segErr then raise .invalidSegmentIndex s
     else respond { status := .ok, low := s.segLow, high := s.segHigh, total := 0x00 } s)

/-- One element of `seg_encode`. -/
def segJoin (acc : Option (Byte × Byte)) (i : Int) : Option (Byte × Byte) :=
  match acc, segBit i with
  | some (l, h), some (a, b) => some (l ^^^ a, h ^^^ b)
  | some _, none => none
  | none, _ => none

/-- `seg_encode(xs)`; the answer none is the error `InvalidSegmentIndex` (R124). -/
def segEncode (xs : List Int) : Option (Byte × Byte) := xs.foldl segJoin (some (0x00, 0x00))

end Sys2Proof.Machine
end

