-- ==== Sys2Proof/Machine/Dispatch.lean ====
section
/-! DEFINITION. One arm per row of spec/opcode_table.json (30_encoding.md R71, R82). -/

namespace Sys2Proof.Machine

def exec (i : Instr) (s : State) : Host.Outcome State Fault Refusal :=
  match i with
  | .build cmd plen pay => Sys2Proof.Machine.execBuild cmd plen pay s
  | .segclr => Sys2Proof.Machine.execSegclr s
  | .segadd idx => Sys2Proof.Machine.execSegadd idx s
  | .segrd => Sys2Proof.Machine.execSegrd s
  | .chunk cmd hlen hdr elen maxc => Sys2Proof.Machine.execChunk cmd hlen hdr elen maxc s
  | .power on => Sys2Proof.Machine.execPower on s
  | .bright pct => Sys2Proof.Machine.execBright pct s
  | .color r g b segsel => Sys2Proof.Machine.execColor r g b segsel s
  | .frame command payload => Sys2Proof.Machine.execFrame command payload s
  | .framePower on => Sys2Proof.Machine.execFramePower on s
  | .frameBright level => Sys2Proof.Machine.execFrameBright level s
  | .frameColorAll r g b => Sys2Proof.Machine.execFrameColorAll r g b s
  | .frameColorSeg r g b segLow segHigh => Sys2Proof.Machine.execFrameColorSeg r g b segLow segHigh s
  | .frameChunk command seq total body => Sys2Proof.Machine.execFrameChunk command seq total body s

end Sys2Proof.Machine
end

