-- ==== Sys2Proof/Machine/Fetch.lean ====
section
/-! DEFINITION. Which step comes next: the next event of the host, the sink or the pin, or the block's own step
(10_state.md R35). -/

namespace Sys2Proof.Machine

/-- What the fetch finds: a request taken, with the state that takes it, or a step that is no request's. -/
inductive Fetched where
  | run (i : Instr) (s : State)
  | own (o : Host.Outcome State Fault Refusal)

/-- The block left to itself: an emission while a sequence is active, else nothing at all
(10_state.md R35, 60_exceptions.md R202; log entry 16). -/
def autonomous (s : State) : Host.Outcome State Fault Refusal :=
  if s.chActive then sequencerEmit s else .next s

/-- The next step. Reset is enabled in every state; a request is held while `CH_ACTIVE = 1`, which leaves the
emission; a request taken is decoded; a reserved selector is refused (10_state.md R32, R35,
70_reset_and_hazards.md R210, 30_encoding.md R79). -/
def fetch (s : State) : Fetched :=
  match s.inputs with
  | [] => .own (autonomous s)
  | .idle :: rest => .own (autonomous (withInputs rest s))
  | .stall :: rest => .own (.next (withInputs rest s))
  | .placeByte off b :: rest => .own (.next (hostWrite off b (withInputs rest s)))
  | .reset :: rest => .own (.next (resetRegisters (withInputs rest s)))
  | .request r :: rest =>
    if s.chActive then .own (sequencerEmit s)
    else
      match decodeRequest r with
      | .ok i => .run i (withInputs rest s)
      | .error _ => .own (.refused (.reservedSelector r.op))

/-- The request that makes the block produce an encoding: itself, or for a frame the `BUILD` with its command byte
and all 17 payload bytes (93_implementation_defined.md U16; log entry 13). -/
def requestFor : Encoding → Request
  | .request r => r
  | .frame f => { Request.low with op := 0x1, cmd := f[1], plen := 17, pay := wireOf (framePayload f) }

end Sys2Proof.Machine
end

