-- ==== Sys2Proof/Machine/Step.lean ====
section
/-! DEFINITION. One step of the machine, and a state whose next step is a given instruction. -/

namespace Sys2Proof.Machine

/-- One step: the request taken, or the step that is no request's (10_state.md R35, 00_scope.md R6). -/
def step (s : State) : Host.Outcome State Fault Refusal :=
  match fetch s with
  | .run i t => exec i t
  | .own o => o

/-- `s` with the request of a table word offered next and the port ready for it (log entry 13). -/
def State.withFetchWord (s : State) (nbits w : Nat) : State :=
  { s with chActive := false, inputs := .request (requestFor (encodingOfWord nbits w)) :: s.inputs }

end Sys2Proof.Machine
end

