-- ==== Sys2Proof/Machine/Text.lean ====
section
/-! DEFINITION. The textual form of requests and the document's calls as request sequences (30_encoding.md R81). -/

namespace Sys2Proof.Machine

/-- The first `n` bytes of a list as lanes, 0x00 past its end. -/
def lanesOfList (n : Nat) (s : List Byte) : Vector Byte n :=
  ⟨((s ++ List.replicate n 0x00).take n).toArray, by simp⟩

/-- `BUILD <cmd>, [<byte> ...]`: `plen` is the number of bytes listed, 0 to 31; a longer list cannot be asked for. -/
def buildLine (cmd : Byte) (bytes : List Byte) : Option Instr :=
  if bytes.length ≤ 31 then some (.build cmd (BitVec.ofNat 5 bytes.length) (lanesOfList 17 bytes)) else none

/-- `CHUNK <cmd>, hdr=[<byte> ...], len=<L>, maxc=<M>`: `hlen` is the number of header bytes listed, 0 to 15. -/
def chunkLine (cmd : Byte) (hdr : List Byte) (len : BitVec 16) (maxc : Byte) : Option Instr :=
  if hdr.length ≤ 15 then some (.chunk cmd (BitVec.ofNat 4 hdr.length) (lanesOfList 14 hdr) len maxc) else none

/-- The document's `encode(list)`: SEGCLR, one SEGADD per element in list order, SEGRD. -/
def encodeCall (xs : List Byte) : List Instr := [.segclr] ++ xs.map Instr.segadd ++ [.segrd]

/-- The document's `encodeColor(rgb, segments)` with a segment set: SEGCLR, the SEGADDs, then COLOR ... seg. -/
def encodeColorCall (r g b : Byte) (xs : List Byte) : List Instr :=
  [.segclr] ++ xs.map Instr.segadd ++ [.color r g b true]

/-- A byte in two hexadecimal digits. -/
def byteText (b : Byte) : String := String.ofList (hexByte b)

/-- A list of bytes in brackets. -/
def bytesText (s : List Byte) : String := "[" ++ String.intercalate " " (s.map byteText) ++ "]"

/-- The line of a request; a frame row is not a request and has none. Where `plen` or `hlen` names more bytes than
there are lanes, the bytes past the lanes are written 00. -/
def lineText : Instr → Option String
  | .build cmd plen pay =>
    some ("BUILD 0x" ++ byteText cmd ++ ", " ++
      bytesText ((pay.toList ++ List.replicate 14 0x00).take plen.toNat))
  | .segclr => some "SEGCLR"
  | .segadd idx => some ("SEGADD " ++ toString (signed idx))
  | .segrd => some "SEGRD"
  | .chunk cmd hlen hdr elen maxc =>
    some ("CHUNK 0x" ++ byteText cmd ++ ", hdr=" ++
      bytesText ((hdr.toList ++ [0x00]).take hlen.toNat) ++
      ", len=" ++ toString elen.toNat ++ ", maxc=" ++ toString maxc.toNat)
  | .power on => some (if on then "POWER on" else "POWER off")
  | .bright pct => some ("BRIGHT " ++ toString (signed pct))
  | .color r g b segsel =>
    some ("COLOR 0x" ++ byteText r ++ ", 0x" ++ byteText g ++ ", 0x" ++ byteText b ++
      (if segsel then ", seg" else ", all"))
  | .frame _ _ => none
  | .framePower _ => none
  | .frameBright _ => none
  | .frameColorAll _ _ _ => none
  | .frameColorSeg _ _ _ _ _ => none
  | .frameChunk _ _ _ _ => none

end Sys2Proof.Machine
end

