-- ==== Sys2Proof/Safety.lean ====
section
/-! DEFINITION. What a good state and a finished run are (10_state.md R30, R35, R37; 30_encoding.md R80). -/

namespace Sys2Proof.Machine

/-- "A state is quiescent when `CH_ACTIVE = 0`" (10_state.md R35). -/
def Quiescent (s : State) : Prop := s.chActive = false

/-- The end of a run: "the host has no further request, `CH_ACTIVE = 0`, and every emitted frame has been taken by
the sink" (10_state.md R37). The last holds in every state, a transfer being inside the emitting step (R33); other
events may still be pending. -/
def Final (s : State) : Prop := (∀ r, Input.request r ∉ s.inputs) ∧ s.chActive = false

/-- What the sequencer registers hold while a sequence is active (10_state.md R30 (b)). -/
structure SequencerInv (s : State) : Prop where
  hlen_le   : s.chHlen.toNat ≤ 14
  len_pos   : 1 ≤ s.chLen.toNat
  total_eq  : s.chTotal.toNat = ceilDiv s.chLen.toNat (15 - s.chHlen.toNat)
  total_pos : 1 ≤ s.chTotal.toNat
  seq_lt    : s.chSeq.toNat < s.chTotal.toNat
  hdr_zero  : ∀ i : Fin 14, s.chHlen.toNat ≤ i.val → s.chHdr[i] = 0x00

/-- The invariants of every reachable state (10_state.md R30), with the canonical form of `EP` and rule R80's
"Every frame in `OUT` is well-formed". -/
structure StateInv (s : State) : Prop where
  segHigh_bit7 : s.segHigh.getLsbD 7 = false
  sequencer    : s.chActive = true → SequencerInv s
  ep_wf        : Memory.wf s.ep
  out_ok       : ∀ f ∈ s.out, frameOk f = true

/-- The requests of a list executed in order, stopping at the first fault or refusal. -/
def execAll : List Instr → State → Host.Outcome State Fault Refusal
  | [], s => .next s
  | i :: rest, s =>
    match exec i s with
    | .next t => execAll rest t
    | .fault e => .fault e
    | .refused e => .refused e

/-- No reset, no held transfer and no write of the host's memory comes in the next `n` steps of an active sequence.
A request that comes next is held, so what lies behind it does not come (10_state.md R33, R35, 20_memory.md R55). -/
def undisturbed : Nat → List Input → Bool
  | 0, _ => true
  | _ + 1, [] => true
  | n + 1, .idle :: rest => undisturbed n rest
  | _ + 1, .request _ :: _ => true
  | _ + 1, .stall :: _ => false
  | _ + 1, .placeByte _ _ :: _ => false
  | _ + 1, .reset :: _ => false

/-- What is pending after `n` such steps: the steps with nothing offered are used up, a request stays with the host. -/
def eventsAfter : Nat → List Input → List Input
  | 0, l => l
  | _ + 1, [] => []
  | n + 1, .idle :: rest => eventsAfter n rest
  | _ + 1, .request r :: rest => .request r :: rest
  | _ + 1, .stall :: rest => .stall :: rest
  | _ + 1, .placeByte off b :: rest => .placeByte off b :: rest
  | _ + 1, .reset :: rest => .reset :: rest

/-- The bytes of `EP` at offsets 0 to `n - 1` (00_scope.md R8). -/
def payloadOf (s : State) (n : Nat) : List Byte := (List.range n).map (Memory.read s.ep)

/-- The registers `CH_*`, which CHUNK, the sequencer and reset alone write (10_state.md R20). -/
def sameSequencer (s t : State) : Prop :=
  t.chActive = s.chActive ∧ t.chCmd = s.chCmd ∧ t.chHlen = s.chHlen ∧ t.chHdr = s.chHdr ∧ t.chLen = s.chLen ∧
    t.chTotal = s.chTotal ∧ t.chSeq = s.chSeq

/-- The registers `SEG_*`, which SEGCLR, SEGADD and reset alone write (10_state.md R20). -/
def sameSegments (s t : State) : Prop :=
  t.segLow = s.segLow ∧ t.segHigh = s.segHigh ∧ t.segErr = s.segErr

end Sys2Proof.Machine
end

