-- ==== Sys2Proof/Certificates/Slice0/Obligations.lean ====
section
/-! DEFINITION. Statements about `frame_builder` for the provers, in the order of the spec's files. -/

open Sys2Proof Sys2Proof.Machine

/-! ### Encodings (30_encoding.md, 20_memory.md) -/

/-- 30_encoding.md R70, R71, R72: a request read back is the request asked for, every operand at every value. -/
def Obligations.RequestReadBackIsTheRequestAsked : Prop :=
  ∀ i : Instr, i.isRequest = true → decode (encode i) = .ok i

/-- 30_encoding.md R71, R72, R79: which signals each selector reads, where a lane lies on its wire, and that a
reserved selector is refused by name. -/
def Obligations.SelectorReadsItsOwnSignals : Prop :=
  ∀ q : Request,
    (q.op = 0x1 → decodeRequest q = .ok (.build q.cmd q.plen (lanesOf 17 q.pay))) ∧
    (q.op = 0x2 → decodeRequest q = .ok .segclr) ∧
    (q.op = 0x3 → decodeRequest q = .ok (.segadd q.idx)) ∧
    (q.op = 0x4 → decodeRequest q = .ok .segrd) ∧
    (q.op = 0x5 → decodeRequest q = .ok (.chunk q.cmd q.hlen (lanesOf 14 q.hdr) q.elen q.maxc)) ∧
    (q.op = 0x8 → decodeRequest q = .ok (.power (q.on.getLsbD 0))) ∧
    (q.op = 0x9 → decodeRequest q = .ok (.bright q.pct)) ∧
    (q.op = 0xA → decodeRequest q = .ok (.color q.r q.g q.b (q.segsel.getLsbD 0))) ∧
    (q.op ∈ [0x0, 0x6, 0x7, 0xB, 0xC, 0xD, 0xE, 0xF] → decodeRequest q = .error (.reservedSelector q.op)) ∧
    (∀ i : Fin 17, (lanesOf 17 q.pay)[i] = q.pay.extractLsb' (128 - 8 * i.val) 8) ∧
    (∀ i : Fin 14, (lanesOf 14 q.hdr)[i] = q.hdr.extractLsb' (104 - 8 * i.val) 8)

/-- Words written out from the encodings of 30_encoding.md R71 and from the frames of 95_test_vectors.md S5, S6.
Model's choices: the selector's place in a request word (log entry 6), and that the two frames, which also match
`FRAME` and `FRAME_CHUNK`, are read as their specific rows (log entry 9). -/
def Obligations.SampleWordsAreReadRight : Prop :=
  decodeTableWord 8 0x2 = some .segclr ∧
  decodeTableWord 8 0x4 = some .segrd ∧
  decodeTableWord 8 0x8 = some (.power false) ∧
  decodeTableWord 8 0xB = none ∧
  decodeTableWord 160 0x3301010000000000000000000000000000000033 = some (.framePower true) ∧
  decodeTableWord 160 0x330502FF000000FFAE54000000000000000000CE = some (.frameColorAll 255 0 0) ∧
  decodeTableWord 160 0x3301010000000000000000000000000000000034 = none

/-- 30_encoding.md R80: the frames a decoder accepts. -/
def Obligations.FrameIsReadExactlyWhenWellFormed : Prop :=
  ∀ f : Frame,
    ((∃ i, decodeFrame f = .ok i) ↔ f[0] = 0x33 ∧ xorAll f.toList = 0) ∧
    (f[0] ≠ 0x33 → decodeFrame f = .error (.badPrefix f[0])) ∧
    (f[0] = 0x33 → xorAll f.toList ≠ 0 → decodeFrame f = .error (.badChecksum (xorAll f.toList)))

/-- 30_encoding.md R74, R76, R77, R82: the row a frame is read as is well formed and writes that frame again. Which
row is named where several match is the model's choice (log entry 9); the statement holds for any. -/
def Obligations.FrameReadThenWrittenIsTheFrame : Prop :=
  ∀ (f : Frame) (i : Instr), decodeFrame f = .ok i → encode i = .frame f ∧ i.wellFormed = true

/-- 30_encoding.md R76, R77, R82: the rows a well-formed frame matches are exactly those that encode to it; "every
frame matches `FRAME`", and `FRAME_CHUNK`, which fixes the prefix alone, so that it coincides with the specific rows. -/
def Obligations.FrameRowMatchesItsOwnFrame : Prop :=
  (∀ (i : Instr) (f : Frame), encode i = .frame f →
    i ∈ frameReadings f ∧ f[0] = 0x33 ∧ xorAll f.toList = 0) ∧
  (∀ (i : Instr) (f : Frame), frameOk f = true → i ∈ frameReadings f → encode i = .frame f) ∧
  ∀ f : Frame, frameOk f = true →
    (∃ p, Instr.frame f[1] p ∈ frameReadings f) ∧ ∃ body, Instr.frameChunk f[1] f[2] f[3] body ∈ frameReadings f

/-- 20_memory.md R51: byte `k` of a frame lies in bits `[159 - 8k : 152 - 8k]` of `frm_data`. -/
def Obligations.FrameByteLiesAtItsBits : Prop :=
  (∀ (f : Frame) (k : Fin 20), (frameWord f).extractLsb' (152 - 8 * k.val) 8 = f[k]) ∧
  (∀ f : Frame, frameOfWord (frameWord f) = f) ∧
  (∀ w : BitVec 160, frameWord (frameOfWord w) = w)

/-- 20_memory.md R53: the rendering is the 160-bit value in 40 upper-case hexadecimal digits. -/
def Obligations.FrameHexIsTheWordInHex : Prop :=
  ∀ f : Frame, (frameHex f).length = 40 ∧
    (∀ k : Fin 20, (frameHex f)[2 * k.val]? = some (hexDigit (f[k].toNat / 16)) ∧
      (frameHex f)[2 * k.val + 1]? = some (hexDigit (f[k].toNat % 16))) ∧
    ∀ j : Fin 40, (frameHex f)[j.val]? = some (hexDigit ((frameWord f).toNat / 16 ^ (39 - j.val) % 16))

/-! ### Checksum and frame assembly (40_frame_assembly.md) -/

/-- 40_frame_assembly.md R100, R101: the tree returns the same byte as the running XOR in offset order, and as any
other order or grouping of the inputs. -/
def Obligations.ChecksumTreeIsRunningXor : Prop :=
  (∀ b : List Byte, b.length = 19 →
    xorTree b = xorAll b ∧ ∀ c : List Byte, c.Perm b → xorTree c = xorAll b) ∧
  ∀ l m : List Byte, xorAll (l ++ m) = xorAll l ^^^ xorAll m

/-- 40_frame_assembly.md R102: each bit of the checksum is the parity of that bit over the 19 bytes. -/
def Obligations.ChecksumBitIsParityOfThatBit : Prop :=
  ∀ b : List Byte, b.length = 19 → ∀ j < 8,
    ((xorAll b).getLsbD j = true ↔ (b.countP fun x => x.getLsbD j) % 2 = 1)

/-- 40_frame_assembly.md R105: `build`, byte by byte, its checksum invariant, and where it is undefined. -/
def Obligations.BuildLaysOutTheFrame : Prop :=
  ∀ (c : Byte) (s : List Byte),
    (s.length ≤ 17 → ∃ f : Frame, build c s = some f ∧
      f.toList = [0x33, c] ++ s ++ List.replicate (17 - s.length) 0x00 ++ [xorAll ([0x33, c] ++ s)] ∧
      xorAll f.toList = 0 ∧ f[0] = 0x33 ∧ f[1] = c ∧
      (∀ i : Fin 17, f[2 + i.val] = if h : i.val < s.length then s[i.val] else 0x00)) ∧
    (17 < s.length → build c s = none) ∧
    ∀ (plen : BitVec 5) (pay : Vector Byte 17) (u : State), plen.toNat ≤ 17 → u.chActive = false →
      ∃ (f : Frame) (t : State), build c (slice pay.toList 0 plen.toNat) = some f ∧
        exec (.build c plen pay) u = .next t ∧ t.out = u.out ++ [f]

/-- 40_frame_assembly.md R106: padding changes neither the checksum nor the frame. -/
def Obligations.PaddingChangesNothing : Prop :=
  ∀ (c : Byte) (s : List Byte),
    (∀ n, xorAll ([0x33, c] ++ s ++ List.replicate n 0x00) = xorAll ([0x33, c] ++ s)) ∧
    (∀ m, s.length + m ≤ 17 → build c s = build c (s ++ List.replicate m 0x00))

/-- 40_frame_assembly.md R110: a frame determines its command and its padded payload; byte 19 follows from the
others. -/
def Obligations.FrameDeterminesCommandAndPayload : Prop :=
  (∀ (c : Byte) (s t : List Byte), s.length ≤ 17 → t.length ≤ 17 →
    (build c s = build c t ↔
      s ++ List.replicate (17 - s.length) 0x00 = t ++ List.replicate (17 - t.length) 0x00)) ∧
  (∀ (c d : Byte) (s t : List Byte), s.length ≤ 17 → t.length ≤ 17 → c ≠ d → build c s ≠ build d t) ∧
  (∀ f g : Frame, frameOk f = true → frameOk g = true → (∀ k : Fin 19, f[k.val] = g[k.val]) → f = g)

/-- 40_frame_assembly.md R111: one changed byte changes the checksum by the same difference. -/
def Obligations.OneChangedByteMovesTheChecksum : Prop :=
  (∀ (b : List Byte) (i : Nat) (d x : Byte), b.length = 19 → 1 ≤ i → i ≤ 18 → d ≠ 0 → b[i]? = some x →
    xorAll (b.set i (x ^^^ d)) = xorAll b ^^^ d) ∧
  (∀ (f g : Frame) (j : Fin 19), xorAll f.toList = 0 → xorAll g.toList = 0 → f[j.val] ≠ g[j.val] →
    (∀ k : Fin 19, k ≠ j → f[k.val] = g[k.val]) → f[19] ≠ g[19])

/-- 40_frame_assembly.md R103, R109: what BUILD does, on success and on failure, and that nothing else changes. -/
def Obligations.BuildEmitsItsFrameOrFailsWhole : Prop :=
  ∀ (cmd : Byte) (plen : BitVec 5) (pay : Vector Byte 17) (s : State), s.chActive = false →
    (∃ q, encode (.build cmd plen pay) = .request q ∧ q.op = 0x1) ∧
    (plen.toNat ≤ 17 → ∃ f : Frame,
      f.toList = [0x33, cmd] ++ pay.toList.take plen.toNat ++ List.replicate (17 - plen.toNat) 0x00 ++
        [xorAll ([0x33, cmd] ++ pay.toList.take plen.toNat)] ∧
      exec (.build cmd plen pay) s =
        .next { s with out := s.out ++ [f], rsps := s.rsps ++ [⟨.ok, 0x00, 0x00, 0x00⟩] }) ∧
    (17 < plen.toNat →
      exec (.build cmd plen pay) s =
        .next { s with rsps := s.rsps ++ [⟨.invalidPayloadLength, 0x00, 0x00, 0x00⟩] })

/-- 40_frame_assembly.md R104: lanes at or above `plen` have no influence; above 17 no lane has. -/
def Obligations.BuildIgnoresLanesAbovePlen : Prop :=
  ∀ (cmd : Byte) (plen : BitVec 5) (pay pay' : Vector Byte 17) (s : State),
    (plen.toNat ≤ 17 → ∀ i : Fin 17, i.val < plen.toNat → pay[i] = pay'[i]) →
    exec (.build cmd plen pay) s = exec (.build cmd plen pay') s

/-! ### Segment mask (41_segment_mask.md) -/

/-- 41_segment_mask.md R121. -/
def Obligations.SegclrStartsAnEmptyList : Prop :=
  ∀ s : State, s.chActive = false →
    (∃ q, encode .segclr = .request q ∧ q.op = 0x2) ∧
    exec .segclr s =
      .next { s with segLow := 0x00, segHigh := 0x00, segErr := false,
                     rsps := s.rsps ++ [⟨.ok, 0x00, 0x00, 0x00⟩] }

/-- 41_segment_mask.md R120, R122: a valid index toggles its bit, an invalid one sets `SEG_ERR` alone. -/
def Obligations.SegaddTogglesOneBitOrSetsTheFlag : Prop :=
  ∀ (idx : Byte) (s : State), s.chActive = false →
    (∃ q, encode (.segadd idx) = .request q ∧ q.op = 0x3) ∧
    (∀ i : Nat, idx.toInt = i → i ≤ 7 →
      exec (.segadd idx) s =
        .next { s with segLow := s.segLow ^^^ ((1 : Byte) <<< i),
                       rsps := s.rsps ++ [⟨.ok, 0x00, 0x00, 0x00⟩] }) ∧
    (∀ i : Nat, idx.toInt = i → 8 ≤ i → i ≤ 14 →
      exec (.segadd idx) s =
        .next { s with segHigh := s.segHigh ^^^ ((1 : Byte) <<< (i - 8)),
                       rsps := s.rsps ++ [⟨.ok, 0x00, 0x00, 0x00⟩] }) ∧
    (idx.toInt < 0 ∨ 15 ≤ idx.toInt →
      exec (.segadd idx) s =
        .next { s with segErr := true, rsps := s.rsps ++ [⟨.invalidSegmentIndex, 0x00, 0x00, 0x00⟩] })

/-- 41_segment_mask.md R123. -/
def Obligations.SegrdReturnsTheMaskUnlessFlagged : Prop :=
  ∀ s : State, s.chActive = false →
    (∃ q, encode .segrd = .request q ∧ q.op = 0x4) ∧
    (s.segErr = false →
      exec .segrd s = .next { s with rsps := s.rsps ++ [⟨.ok, s.segLow, s.segHigh, 0x00⟩] }) ∧
    (s.segErr = true →
      exec .segrd s = .next { s with rsps := s.rsps ++ [⟨.invalidSegmentIndex, 0x00, 0x00, 0x00⟩] })

/-- 41_segment_mask.md R124: the request sequence SEGCLR, SEGADDs, SEGRD computes `seg_encode`, from any quiescent
state. -/
def Obligations.SegmentRequestsComputeSegEncode : Prop :=
  ∀ (xs : List Byte) (s : State), s.chActive = false →
    ∃ t : State, execAll (encodeCall xs) s = .next t ∧ t.out = s.out ∧
      t.rsps.length = s.rsps.length + xs.length + 2 ∧
      (∀ l h, segEncode (xs.map BitVec.toInt) = some (l, h) → t.rsps.getLast? = some ⟨.ok, l, h, 0x00⟩) ∧
      (segEncode (xs.map BitVec.toInt) = none →
        t.rsps.getLast? = some ⟨.invalidSegmentIndex, 0x00, 0x00, 0x00⟩)

/-- 41_segment_mask.md R124: the list function fails exactly on an invalid element, and of the empty list it is
the empty mask. -/
def Obligations.SegEncodeFailsExactlyOnInvalidIndex : Prop :=
  (∀ xs : List Int, segEncode xs = none ↔ ∃ i ∈ xs, i < 0 ∨ 14 < i) ∧ segEncode [] = some (0x00, 0x00)

/-- 41_segment_mask.md R125: duplicates cancel; without repeats the mask is membership. -/
def Obligations.MaskBitCountsOddOccurrences : Prop :=
  (∀ xs : List Int, (∀ i ∈ xs, 0 ≤ i ∧ i ≤ 14) →
    ∃ l h : Byte, segEncode xs = some (l, h) ∧ h.getLsbD 7 = false ∧
      (∀ i : Nat, i ≤ 7 → (l.getLsbD i = true ↔ xs.count (i : Int) % 2 = 1)) ∧
      (∀ i : Nat, 8 ≤ i → i ≤ 14 → (h.getLsbD (i - 8) = true ↔ xs.count (i : Int) % 2 = 1)) ∧
      (xs.Nodup → (∀ i : Nat, i ≤ 7 → (l.getLsbD i = true ↔ (i : Int) ∈ xs)) ∧
        ∀ i : Nat, 8 ≤ i → i ≤ 14 → (h.getLsbD (i - 8) = true ↔ (i : Int) ∈ xs))) ∧
  ∀ i : Int, 0 ≤ i → i ≤ 14 → segEncode [i, i] = some (0x00, 0x00)

/-- 41_segment_mask.md R126: order does not matter, for the pair and for the error. -/
def Obligations.SegmentOrderDoesNotMatter : Prop :=
  ∀ xs ys : List Int, xs.Perm ys → segEncode xs = segEncode ys

/-- 41_segment_mask.md R127: no index list gives the all-segments pair; all fifteen indices give (0xFF, 0x7F). -/
def Obligations.AllSegmentsPairIsNoListMask : Prop :=
  (∀ xs : List Int, segEncode xs ≠ some (0x00, 0xFF)) ∧
  ∀ xs : List Int, xs.Perm ((List.range 15).map Int.ofNat) → segEncode xs = some (0xFF, 0x7F)

/-! ### Chunker (42_chunker.md, 20_memory.md) -/

/-- 00_scope.md R7, 42_chunker.md R141: the frame count is the least that covers the payload, and every slice below
it has 1 to `S` bytes. -/
def Obligations.FrameCountIsTheLeastCover : Prop :=
  ∀ len size : Nat, 1 ≤ size →
    len ≤ ceilDiv len size * size ∧ (∀ q, len ≤ q * size → ceilDiv len size ≤ q) ∧
    ∀ k < ceilDiv len size, 1 ≤ sliceLen size len k ∧ sliceLen size len k ≤ size ∧
      sliceOffsets size len k = List.range' (k * size) (min ((k + 1) * size) len - k * size)

/-- 42_chunker.md R142: CHUNK's three checks in order, and the load. -/
def Obligations.ChunkChecksInOrderThenLoads : Prop :=
  ∀ (cmd : Byte) (hlen : BitVec 4) (hdr : Vector Byte 14) (elen : BitVec 16) (maxc : Byte) (s : State),
    s.chActive = false →
    (∃ q, encode (.chunk cmd hlen hdr elen maxc) = .request q ∧ q.op = 0x5) ∧
    (elen.toNat = 0 →
      exec (.chunk cmd hlen hdr elen maxc) s = .next { s with rsps := s.rsps ++ [⟨.ok, 0x00, 0x00, 0x00⟩] }) ∧
    (elen.toNat ≠ 0 → 14 < hlen.toNat →
      exec (.chunk cmd hlen hdr elen maxc) s =
        .next { s with rsps := s.rsps ++ [⟨.invalidPayloadLength, 0x00, 0x00, 0x00⟩] }) ∧
    (elen.toNat ≠ 0 → hlen.toNat ≤ 14 → maxc.toNat < ceilDiv elen.toNat (15 - hlen.toNat) →
      exec (.chunk cmd hlen hdr elen maxc) s =
        .next { s with rsps := s.rsps ++ [⟨.payloadTooLarge, 0x00, 0x00, 0x00⟩] }) ∧
    (elen.toNat ≠ 0 → hlen.toNat ≤ 14 → ceilDiv elen.toNat (15 - hlen.toNat) ≤ maxc.toNat →
      ∃ (total : Byte) (lanes : Vector Byte 14),
        total.toNat = ceilDiv elen.toNat (15 - hlen.toNat) ∧
        (∀ i : Fin 14, lanes[i] = if i.val < hlen.toNat then hdr[i] else 0x00) ∧
        exec (.chunk cmd hlen hdr elen maxc) s =
          .next { s with chCmd := cmd, chHlen := hlen, chHdr := lanes, chLen := elen, chTotal := total,
                         chSeq := 0x00, chActive := true,
                         rsps := s.rsps ++ [⟨.ok, 0x00, 0x00, total⟩] })

/-- 42_chunker.md R150: `PayloadTooLarge` exactly when the payload is longer than `maxc` full slices, with room for
data in a frame. -/
def Obligations.PayloadTooLargeExactlyPastMaxc : Prop :=
  ∀ (cmd : Byte) (hlen : BitVec 4) (hdr : Vector Byte 14) (elen : BitVec 16) (maxc : Byte) (s : State),
    s.chActive = false →
    ∃ (t : State) (r : Response), exec (.chunk cmd hlen hdr elen maxc) s = .next t ∧ t.rsps = s.rsps ++ [r] ∧
      (r.status = .payloadTooLarge ↔
        1 ≤ elen.toNat ∧ hlen.toNat ≤ 14 ∧ maxc.toNat < ceilDiv elen.toNat (15 - hlen.toNat)) ∧
      (r.status = .payloadTooLarge ↔
        1 ≤ elen.toNat ∧ hlen.toNat ≤ 14 ∧ maxc.toNat * (15 - hlen.toNat) < elen.toNat) ∧
      (r.status = .ok → elen.toNat ≤ 3825)

/-- 42_chunker.md R143: the sequencer emission, from every state that meets rule R30 (b), whether nothing is pending,
nothing is offered during this step, or a request is being held, whatever lies behind it. -/
def Obligations.EmissionPutsOutTheNextSlice : Prop :=
  ∀ s : State, s.chActive = true → SequencerInv s → undisturbed 1 s.inputs = true →
    ∃ (f : Frame) (n : Nat), n = min (15 - s.chHlen.toNat) (s.chLen.toNat - s.chSeq.toNat * (15 - s.chHlen.toNat)) ∧
      1 ≤ n ∧
      build s.chCmd ([BitVec.ofNat 8 (seqBaseNat s.cfg.seqBase + s.chSeq.toNat), s.chTotal] ++
        s.chHdr.toList.take s.chHlen.toNat ++
        (List.range n).map (fun j => Memory.read s.ep (s.chSeq.toNat * (15 - s.chHlen.toNat) + j))) = some f ∧
      seqBaseNat s.cfg.seqBase + s.chSeq.toNat ≤ 255 ∧ s.chSeq.toNat + 1 ≤ 255 ∧
      step s =
        .next { s with
          out := s.out ++ [f],
          epReads := s.epReads ++ (List.range n).map (fun j =>
            BitVec.ofNat 16 (s.chSeq.toNat * (15 - s.chHlen.toNat) + j)),
          chSeq := BitVec.ofNat 8 (s.chSeq.toNat + 1),
          chActive := decide (s.chSeq.toNat + 1 ≠ s.chTotal.toNat),
          inputs := eventsAfter 1 s.inputs }

/-- 42_chunker.md R146, R145, 20_memory.md R54, R58: an accepted CHUNK and the steps after it append exactly
`chunk(c, h, P)`, read each offset below `L` once in ascending order, leave the segment registers alone, and use up
none of what is pending but steps with nothing offered. -/
def Obligations.AcceptedChunkEmitsChunkFrames : Prop :=
  ∀ (c : Byte) (hlen : BitVec 4) (hdr : Vector Byte 14) (elen : BitVec 16) (maxc : Byte) (s : State),
    s.chActive = false → undisturbed (ceilDiv elen.toNat (15 - hlen.toNat)) s.inputs = true →
    hlen.toNat ≤ 14 → ceilDiv elen.toNat (15 - hlen.toNat) ≤ maxc.toNat →
    ∃ (t u : State) (frames : List Frame),
      exec (.chunk c hlen hdr elen maxc) s = .next t ∧
      t.rsps = s.rsps ++ [⟨.ok, 0x00, 0x00, BitVec.ofNat 8 (ceilDiv elen.toNat (15 - hlen.toNat))⟩] ∧
      chunkFrames (seqBaseNat s.cfg.seqBase) c (hdr.toList.take hlen.toNat) (payloadOf s elen.toNat) = some frames ∧
      frames.length = ceilDiv elen.toNat (15 - hlen.toNat) ∧
      core.run frames.length t = .next u ∧ u.out = s.out ++ frames ∧ u.chActive = false ∧
      u.epReads = s.epReads ++ (List.range elen.toNat).map (BitVec.ofNat 16) ∧
      u.rsps = t.rsps ∧ u.inputs = eventsAfter frames.length s.inputs ∧ u.ep = s.ep ∧ sameSegments s u

/-- 42_chunker.md R145, R147, 30_encoding.md R77: what frame `k` of `chunk(c, h, P)` carries. -/
def Obligations.ChunkFramesCarryAscendingIndices : Prop :=
  ∀ (base : SeqBase) (c : Byte) (h p : List Byte) (frames : List Frame),
    chunkFrames (seqBaseNat base) c h p = some frames →
    frames.length = ceilDiv p.length (15 - h.length) ∧ frames.length ≤ 255 ∧
    ∀ (k : Nat) (f : Frame), frames[k]? = some f →
      f[0] = 0x33 ∧ f[1] = c ∧ f[2].toNat = seqBaseNat base + k ∧ f[3].toNat = frames.length ∧
      slice f.toList 4 (4 + h.length) = h ∧ xorAll f.toList = 0

/-- 42_chunker.md R148: the round trip, (a) for an extraction that knows `n_k`, (b) for the full data fields. -/
def Obligations.ChunkRoundTripRestoresPayload : Prop :=
  ∀ (base : SeqBase) (c : Byte) (h p : List Byte) (frames : List Frame),
    chunkFrames (seqBaseNat base) c h p = some frames →
    ((List.range frames.length).flatMap fun k =>
      frames[k]?.elim [] fun f =>
        slice f.toList (4 + h.length) (4 + h.length + sliceLen (15 - h.length) p.length k)) = p ∧
    (frames.flatMap fun f => slice f.toList (4 + h.length) 19) =
      p ++ List.replicate (frames.length * (15 - h.length) - p.length) 0x00

/-- 42_chunker.md R149: the empty payload, for every header and limit. -/
def Obligations.EmptyPayloadGivesNoFrame : Prop :=
  (∀ (base : SeqBase) (c : Byte) (h : List Byte), h.length ≤ 14 →
    chunkFrames (seqBaseNat base) c h [] = some []) ∧
  ∀ (c : Byte) (hlen : BitVec 4) (hdr : Vector Byte 14) (maxc : Byte) (s : State), s.chActive = false →
    ∃ t : State, exec (.chunk c hlen hdr 0 maxc) s = .next t ∧ sameSequencer s t ∧ sameSegments s t ∧
      t.out = s.out ∧ t.epReads = s.epReads ∧ t.rsps = s.rsps ++ [⟨.ok, 0x00, 0x00, 0x00⟩]

/-- 42_chunker.md R152, 10_state.md R32, R35: while a sequence is active no request has an effect, and the step with
a request offered is the sequencer's, which leaves the request with the host. That `exec` answers the unchanged
state for a held request is the model's choice (log entry 7). -/
def Obligations.RequestIsHeldWhileActive : Prop :=
  ∀ (i : Instr) (s : State), i.isRequest = true → s.chActive = true →
    exec i s = .next s ∧
    ∀ (r : Request) (rest : List Input), s.inputs = .request r :: rest →
      step s = sequencerEmit s ∧
      ∀ t : State, step s = .next t → t.inputs = s.inputs ∧ t.rsps = s.rsps ∧ sameSegments s t

/-- 42_chunker.md R155, 10_state.md R37: an active sequence ends after exactly `CH_TOTAL - CH_SEQ` emissions and not
before. -/
def Obligations.SequenceEndsAfterTheFramesOwed : Prop :=
  ∀ s : State, s.chActive = true → SequencerInv s →
    undisturbed (s.chTotal.toNat - s.chSeq.toNat) s.inputs = true →
    (∀ j < s.chTotal.toNat - s.chSeq.toNat, ∃ u : State, core.run j s = .next u ∧ u.chActive = true ∧
      u.chSeq.toNat = s.chSeq.toNat + j ∧ u.out.length = s.out.length + j) ∧
    ∃ u : State, core.run (s.chTotal.toNat - s.chSeq.toNat) s = .next u ∧ u.chActive = false ∧
      u.out.length = s.out.length + (s.chTotal.toNat - s.chSeq.toNat)

/-- 42_chunker.md R157: the frames are a function of `cmd`, the used header lanes, the payload bytes below `L` and
`SEQ_BASE`; the limit, the other lanes and everything else in the state have no influence. -/
def Obligations.ChunkFramesDependOnlyOnTheirOperands : Prop :=
  ∀ (c : Byte) (hlen : BitVec 4) (hdr hdr' : Vector Byte 14) (elen : BitVec 16) (maxc maxc' : Byte) (s s' t t' u u' : State),
    s.chActive = false → s'.chActive = false →
    undisturbed (ceilDiv elen.toNat (15 - hlen.toNat)) s.inputs = true →
    undisturbed (ceilDiv elen.toNat (15 - hlen.toNat)) s'.inputs = true →
    s.cfg.seqBase = s'.cfg.seqBase → payloadOf s elen.toNat = payloadOf s' elen.toNat →
    hdr.toList.take hlen.toNat = hdr'.toList.take hlen.toNat → hlen.toNat ≤ 14 →
    ceilDiv elen.toNat (15 - hlen.toNat) ≤ maxc.toNat → ceilDiv elen.toNat (15 - hlen.toNat) ≤ maxc'.toNat →
    exec (.chunk c hlen hdr elen maxc) s = .next t → exec (.chunk c hlen hdr' elen maxc') s' = .next t' →
    core.run (ceilDiv elen.toNat (15 - hlen.toNat)) t = .next u →
    core.run (ceilDiv elen.toNat (15 - hlen.toNat)) t' = .next u' →
    ∃ frames, u.out = s.out ++ frames ∧ u'.out = s'.out ++ frames

/-! ### Command formatters (43_command_formatters.md) -/

/-- 43_command_formatters.md R171. -/
def Obligations.PowerEmitsItsFrame : Prop :=
  ∀ (on : Bool) (s : State), s.chActive = false →
    (∃ q, encode (.power on) = .request q ∧ q.op = 0x8) ∧
    ∃ f : Frame,
      f.toList = [0x33, 0x01, if on then 0x01 else 0x00] ++ List.replicate 16 0x00 ++ [if on then 0x33 else 0x32] ∧
      exec (.power on) s = .next { s with out := s.out ++ [f], rsps := s.rsps ++ [⟨.ok, 0x00, 0x00, 0x00⟩] }

/-- 43_command_formatters.md R172, for both legal values of `ROUND_MODE` (the level itself is R173's). -/
def Obligations.BrightEmitsLevelOrRefusesRange : Prop :=
  ∀ (pct : Byte) (s : State), s.chActive = false →
    (∃ q, encode (.bright pct) = .request q ∧ q.op = 0x9) ∧
    (∀ q : Nat, pct.toInt = q → q ≤ 100 → ∃ (f : Frame) (lv : Byte), lv.toNat = level s.cfg.roundMode q ∧
      f.toList = [0x33, 0x04, lv] ++ List.replicate 16 0x00 ++ [0x37 ^^^ lv] ∧
      exec (.bright pct) s = .next { s with out := s.out ++ [f], rsps := s.rsps ++ [⟨.ok, 0x00, 0x00, 0x00⟩] }) ∧
    (pct.toInt < 0 ∨ 100 < pct.toInt →
      exec (.bright pct) s = .next { s with rsps := s.rsps ++ [⟨.invalidValueRange, 0x00, 0x00, 0x00⟩] })

/-- 43_command_formatters.md R173: both rounding modes as nearest integer to `255*q/100`, ties up or to even. -/
def Obligations.LevelIsNearestWithItsTieRule : Prop :=
  (∀ q : Nat, q ≤ 100 → level .halfUp q = (255 * q + 50) / 100) ∧
  (∀ (mode : RoundMode) (q : Nat), q ≤ 100 →
    100 * level mode q ≤ 255 * q + 50 ∧ 255 * q ≤ 100 * level mode q + 50 ∧ level mode q ≤ 255) ∧
  (∀ q : Nat, q ≤ 100 → (255 * q % 100 = 50 ↔ q = 10 ∨ q = 30 ∨ q = 50 ∨ q = 70 ∨ q = 90)) ∧
  (∀ q : Nat, q ≤ 100 → 255 * q % 100 = 50 → level .halfEven q % 2 = 0) ∧
  (∀ mode, level mode 0 = 0 ∧ level mode 100 = 255) ∧
  (∀ q : Nat, q ≤ 100 → (level .halfUp q ≠ level .halfEven q ↔ q = 30 ∨ q = 70)) ∧
  (∀ (mode : RoundMode) (q r : Nat), q ≤ r → r ≤ 100 → level mode q ≤ level mode r)

/-- 43_command_formatters.md R174, R175, R176: both colour modes, the propagated failure, and that no mask or flag
influences the all-segments mode. -/
def Obligations.ColorEmitsItsFrameOrPropagatesFailure : Prop :=
  ∀ (r g b : Byte) (s : State), s.chActive = false →
    (∀ segsel, ∃ q, encode (.color r g b segsel) = .request q ∧ q.op = 0xA) ∧
    (∃ f : Frame,
      f.toList = [0x33, 0x05, 0x02, r, g, b, 0x00, 0xFF, 0xAE, 0x54] ++ List.replicate 9 0x00 ++
        [xorAll [0x33, 0x05, 0x02, r, g, b, 0x00, 0xFF, 0xAE, 0x54]] ∧
      exec (.color r g b false) s =
        .next { s with out := s.out ++ [f], rsps := s.rsps ++ [⟨.ok, 0x00, 0x00, 0x00⟩] }) ∧
    (s.segErr = false → ∃ f : Frame,
      f.toList = [0x33, 0x05, 0x0B, r, g, b, s.segLow, s.segHigh, 0xAE, 0x54] ++ List.replicate 9 0x00 ++
        [xorAll [0x33, 0x05, 0x0B, r, g, b, s.segLow, s.segHigh, 0xAE, 0x54]] ∧
      exec (.color r g b true) s =
        .next { s with out := s.out ++ [f], rsps := s.rsps ++ [⟨.ok, 0x00, 0x00, 0x00⟩] }) ∧
    (s.segErr = true →
      exec (.color r g b true) s =
        .next { s with rsps := s.rsps ++ [⟨.invalidSegmentIndex, 0x00, 0x00, 0x00⟩] })

/-! ### Responses and errors (30_encoding.md R73, 60_exceptions.md) -/

/-- 60_exceptions.md R190: which error each operation answers, exactly when; codes as in 30_encoding.md R73. -/
def Obligations.ErrorsAreExactlyTheTabledOnes : Prop :=
  (∀ (i : Instr) (s : State), i.isRequest = true → s.chActive = false →
    ∃ (t : State) (r : Response), exec i s = .next t ∧ t.rsps = s.rsps ++ [r] ∧
      (r.status = .invalidPayloadLength ↔
        (∃ c n p, i = .build c n p ∧ 17 < n.toNat) ∨
        (∃ c n h e m, i = .chunk c n h e m ∧ 0 < e.toNat ∧ n = 15)) ∧
      (r.status = .invalidValueRange ↔ ∃ p, i = .bright p ∧ (p.toInt < 0 ∨ 100 < p.toInt)) ∧
      (r.status = .invalidSegmentIndex ↔
        (∃ x, i = .segadd x ∧ (x.toInt < 0 ∨ 15 ≤ x.toInt)) ∨ (i = .segrd ∧ s.segErr = true) ∨
        (∃ a b c, i = .color a b c true ∧ s.segErr = true)) ∧
      (r.status = .payloadTooLarge ↔
        ∃ c n h e m, i = .chunk c n h e m ∧ 0 < e.toNat ∧ n.toNat ≤ 14 ∧ m.toNat < ceilDiv e.toNat (15 - n.toNat)) ∧
      r.status ≠ .unknownSceneName ∧ r.status ≠ .unknownMusicMode) ∧
  [Status.ok, .invalidPayloadLength, .invalidValueRange, .invalidSegmentIndex, .unknownSceneName,
    .unknownMusicMode, .payloadTooLarge].map statusCode = [0, 1, 2, 3, 4, 5, 6]

/-- 10_state.md R32, 30_encoding.md R73, 60_exceptions.md R191, R192: every request taken gets exactly one response;
an error has zero result fields, emits nothing and leaves the state, but for `SEG_ERR` after a bad SEGADD; result
fields are non-zero only where the table of R73 allows it. -/
def Obligations.EveryRequestGetsOneResponse : Prop :=
  ∀ (i : Instr) (s : State), i.isRequest = true → s.chActive = false →
    ∃ (t : State) (r : Response), exec i s = .next t ∧ t.rsps = s.rsps ++ [r] ∧
      (t.out = s.out ∨ ∃ f, t.out = s.out ++ [f] ∧ frameOk f = true) ∧
      (r.status ≠ .ok → r.low = 0x00 ∧ r.high = 0x00 ∧ r.total = 0x00 ∧
        t = { s with rsps := s.rsps ++ [r], segErr := t.segErr } ∧
        (t.segErr ≠ s.segErr → ∃ x, i = .segadd x ∧ t.segErr = true)) ∧
      (i ≠ .segrd → r.low = 0x00 ∧ r.high = 0x00) ∧
      ((∀ c n h e m, i ≠ .chunk c n h e m) → r.total = 0x00)

/-- 20_memory.md R60, 40_frame_assembly.md R107: BUILD, POWER, BRIGHT and COLOR with `segsel = 0` answer and emit the
same in any two quiescent states of one machine, and change no register. -/
def Obligations.StatelessRequestsDependOnNoRegister : Prop :=
  ∀ (i : Instr) (s s' : State), s.chActive = false → s'.chActive = false → s.cfg = s'.cfg →
    ((∃ c n p, i = .build c n p) ∨ (∃ on, i = .power on) ∨ (∃ p, i = .bright p) ∨ (∃ r g b, i = .color r g b false)) →
    ∃ (t t' : State) (fs : List Frame) (r : Response), exec i s = .next t ∧ exec i s' = .next t' ∧
      t = { s with out := s.out ++ fs, rsps := s.rsps ++ [r] } ∧
      t' = { s' with out := s'.out ++ fs, rsps := s'.rsps ++ [r] }

/-! ### What no instruction does: frames over all rows (10_state.md R20, R23, R24, 20_memory.md R50) -/

/-- 10_state.md R20, R23, 70_reset_and_hazards.md R216, R217: only SEGCLR and SEGADD write the segment registers;
only SEGCLR clears `SEG_ERR`, only a SEGADD with an invalid index sets it. -/
def Obligations.SegmentRegistersHaveTwoWriters : Prop :=
  ∀ (i : Instr) (s t : State), exec i s = .next t →
    (i ≠ .segclr → (∀ x, i ≠ .segadd x) → sameSegments s t) ∧
    (s.segErr = true → t.segErr = false → i = .segclr) ∧
    (s.segErr = false → t.segErr = true → ∃ x, i = .segadd x ∧ (x.toInt < 0 ∨ 15 ≤ x.toInt))

/-- 10_state.md R20, R24: no request but CHUNK writes a `CH_*` register. -/
def Obligations.SequencerRegistersHaveOneRequestWriter : Prop :=
  ∀ (i : Instr) (s t : State), i.isRequest = true → exec i s = .next t →
    (∀ c n h e m, i ≠ .chunk c n h e m) → sameSequencer s t

/-- 20_memory.md R50, R56, 00_scope.md R9: no row writes the payload space or the parameters, and no request reads the
payload space or touches what is pending. -/
def Obligations.NoInstructionWritesThePayload : Prop :=
  ∀ (i : Instr) (s t : State), exec i s = .next t →
    (∀ a, Memory.read t.ep a = Memory.read s.ep a) ∧ t.cfg = s.cfg ∧
    (i.isRequest = true → t.epReads = s.epReads ∧ t.inputs = s.inputs)

/-! ### The step (10_state.md R35) and the frame rows (30_encoding.md R82) -/

/-- 10_state.md R32, R35: a request offered while the port is ready is taken and executed, once; it leaves the
pending events. -/
def Obligations.StepRunsTheRequestTaken : Prop :=
  ∀ (s : State) (q : Request) (rest : List Input) (i : Instr),
    s.chActive = false → s.inputs = .request q :: rest → decodeRequest q = .ok i →
    step s = exec i { s with inputs := rest }

/-- 30_encoding.md R79: a request with a reserved selector is refused. -/
def Obligations.ReservedSelectorIsRefused : Prop :=
  ∀ (s : State) (q : Request) (rest : List Input),
    s.chActive = false → s.inputs = .request q :: rest → q.op ∈ [0x0, 0x6, 0x7, 0xB, 0xC, 0xD, 0xE, 0xF] →
    step s = .refused (.reservedSelector q.op)

/-- 30_encoding.md R75, R82: the frame rows of the requests complete where the request that produces the frame is
offered. That a frame row is run as its producing step is the model's reading of R82 (log entry 8). -/
def Obligations.RequestFrameRowsRunTheirProducer : Prop :=
  ∀ (s : State) (q : Request) (rest : List Input), s.chActive = false → s.inputs = .request q :: rest →
    (∀ (c : Byte) (p : Vector Byte 17), decodeRequest q = .ok (.build c 17 p) → ∃ f, encode (.frame c p) = .frame f ∧
      exec (.frame c p) s =
        .next { s with inputs := rest, out := s.out ++ [f], rsps := s.rsps ++ [⟨.ok, 0x00, 0x00, 0x00⟩] }) ∧
    (∀ on, decodeRequest q = .ok (.power on) → ∃ f, encode (.framePower on) = .frame f ∧
      exec (.framePower on) s =
        .next { s with inputs := rest, out := s.out ++ [f], rsps := s.rsps ++ [⟨.ok, 0x00, 0x00, 0x00⟩] }) ∧
    (∀ (p lv : Byte) (n : Nat), decodeRequest q = .ok (.bright p) → p.toInt = n → n ≤ 100 →
      lv.toNat = level s.cfg.roundMode n → ∃ f, encode (.frameBright lv) = .frame f ∧
      exec (.frameBright lv) s =
        .next { s with inputs := rest, out := s.out ++ [f], rsps := s.rsps ++ [⟨.ok, 0x00, 0x00, 0x00⟩] }) ∧
    (∀ r g b, decodeRequest q = .ok (.color r g b false) → ∃ f, encode (.frameColorAll r g b) = .frame f ∧
      exec (.frameColorAll r g b) s =
        .next { s with inputs := rest, out := s.out ++ [f], rsps := s.rsps ++ [⟨.ok, 0x00, 0x00, 0x00⟩] }) ∧
    (∀ (r g b l : Byte) (h : BitVec 7), decodeRequest q = .ok (.color r g b true) → s.segErr = false →
      s.segLow = l → s.segHigh = h.setWidth 8 → ∃ f, encode (.frameColorSeg r g b l h) = .frame f ∧
      exec (.frameColorSeg r g b l h) s =
        .next { s with inputs := rest, out := s.out ++ [f], rsps := s.rsps ++ [⟨.ok, 0x00, 0x00, 0x00⟩] })

/-- 42_chunker.md R143, 30_encoding.md R77, R82: row `FRAME_CHUNK` completes as the sequencer emission that puts the
frame out. That a frame row is run as its producing step is the model's reading of R82 (log entry 8). -/
def Obligations.ChunkFrameRowRunsTheEmission : Prop :=
  ∀ (s : State) (seq : Byte) (body : Vector Byte 15), s.chActive = true → SequencerInv s →
    undisturbed 1 s.inputs = true → seq.toNat = seqBaseNat s.cfg.seqBase + s.chSeq.toNat →
    body.toList = (s.chHdr.toList.take s.chHlen.toNat ++
        (sequencerOffsets s).map (Memory.read s.ep) ++ List.replicate 15 0x00).take 15 →
    ∃ f t, encode (.frameChunk s.chCmd seq s.chTotal body) = .frame f ∧
      exec (.frameChunk s.chCmd seq s.chTotal body) s = .next t ∧ step s = .next t ∧ t.out = s.out ++ [f] ∧
      t.chSeq.toNat = s.chSeq.toNat + 1

/-- 30_encoding.md R82, 10_state.md R33, R35: in every state a frame row answers a next state exactly where the
machine's own next step appends that frame, and then it is that step. Model's reading of R82 (log entry 8). -/
def Obligations.FrameRowIsTheStepThatEmitsIt : Prop :=
  ∀ (i : Instr) (f : Frame) (s t : State), encode i = .frame f →
    (exec i s = .next t ↔ step s = .next t ∧ t.out = s.out ++ [f])

/-- 30_encoding.md R82, 10_state.md R35: with nothing offered and no sequence active no frame is on `FRM`, and every
frame row is refused by name (the refusal is the model's, log entry 8). -/
def Obligations.FrameRowWithNothingOfferedIsRefused : Prop :=
  ∀ (i : Instr) (s : State), i.isRequest = false → s.chActive = false → s.inputs = [] →
    exec i s = .refused .frameNotOffered

/-! ### Reset, waiting, the histories and the invariants (70_reset_and_hazards.md, 10_state.md) -/

/-- 70_reset_and_hazards.md R210, 10_state.md R29: the reset step, from every state. -/
def Obligations.ResetClearsTheTenRegisters : Prop :=
  ∀ (s : State) (rest : List Input), s.inputs = .reset :: rest →
    step s =
      .next { s with
        segLow := 0x00, segHigh := 0x00, segErr := false, chActive := false, chCmd := 0x00, chHlen := 0,
        chHdr := Vector.replicate 14 0x00, chLen := 0, chTotal := 0x00, chSeq := 0x00, inputs := rest }

/-- 10_state.md R29: the register values of the reset state; what is not a register is the model's choice
(log entries 2, 3, 5, 13) and is not stated. -/
def Obligations.ResetStateRegistersAreZero : Prop :=
  State.reset.segLow = 0x00 ∧ State.reset.segHigh = 0x00 ∧ State.reset.segErr = false ∧
  State.reset.chActive = false ∧ State.reset.chCmd = 0x00 ∧ State.reset.chHlen = 0 ∧
  (∀ i : Fin 14, State.reset.chHdr[i] = 0x00) ∧ State.reset.chLen = 0 ∧ State.reset.chTotal = 0x00 ∧
  State.reset.chSeq = 0x00

/-- 60_exceptions.md R202, 10_state.md R33, R37: with nothing offered a quiescent block does nothing; a held sink only
uses up the event; a byte the host places in its own memory is read back and changes no register. -/
def Obligations.WaitingAndHostWritesTouchNoRegister : Prop :=
  ∀ (s : State) (rest : List Input),
    (s.chActive = false → s.inputs = [] → step s = .next s) ∧
    (s.chActive = false → s.inputs = .idle :: rest → step s = .next { s with inputs := rest }) ∧
    (s.inputs = .stall :: rest → step s = .next { s with inputs := rest }) ∧
    (∀ (off : Offset) (b : Byte), s.inputs = .placeByte off b :: rest → Memory.wf s.ep →
      ∃ m, step s = .next { s with inputs := rest, ep := m } ∧ Memory.read m off.toNat = b ∧
        ∀ a, a ≠ off.toNat → Memory.read m a = Memory.read s.ep a)

/-- 10_state.md R36, R33: nothing is ever removed from `OUT`, `RSPS` or the reads; a step appends at most one frame
and at most one response, and never both a response and a read. -/
def Obligations.HistoriesOnlyGrow : Prop :=
  ∀ s t : State, step s = .next t →
    ∃ (fs : List Frame) (rs : List Response) (os : List Offset),
      t.out = s.out ++ fs ∧ fs.length ≤ 1 ∧ t.rsps = s.rsps ++ rs ∧ rs.length ≤ 1 ∧
      t.epReads = s.epReads ++ os ∧ (rs = [] ∨ os = []) ∧ t.cfg = s.cfg

/-- 10_state.md R29, R30: the invariant holds right after reset. -/
def Obligations.ResetStateMeetsTheInvariant : Prop := StateInv State.reset

/-- 10_state.md R30, 30_encoding.md R80: every step keeps the invariant: bit 7 of `SEG_HIGH`, the sequencer registers
of an active sequence, the form of the payload memory, and every frame in `OUT` well-formed. -/
def Obligations.EveryStepKeepsTheInvariant : Prop :=
  ∀ s t : State, StateInv s → step s = .next t → StateInv t

/-- 42_chunker.md R143, 60_exceptions.md R192, R196: from a state that meets the invariant the machine never faults,
and stops only at a request with a reserved selector. -/
def Obligations.InvariantStatesNeverFault : Prop :=
  ∀ s : State, StateInv s →
    (∃ t, step s = .next t) ∨
    ∃ (q : Request) (rest : List Input), s.inputs = .request q :: rest ∧ q.legal = false ∧
      step s = .refused (.reservedSelector q.op)

/-- 70_reset_and_hazards.md R211: a reset in mid sequence leaves the frames already emitted and owes no more. -/
def Obligations.ResetCutsTheSequenceShort : Prop :=
  ∀ (s : State) (k : Nat), s.chActive = true → s.inputs = [.reset] →
    ∃ t : State, core.run (k + 1) s = .next t ∧ t.out = s.out ∧ t.chActive = false ∧ t.rsps = s.rsps

/-- 10_state.md R37: a run that is over stays over: whatever other events are pending, no frame, response or read is
added. An active sequence is never over: `CH_TOTAL - CH_SEQ` frames are owed. The events are the model's (log
entries 1, 16). -/
def Obligations.RunThatIsOverStaysOver : Prop :=
  (∀ (s : State) (k : Nat), s.chActive = false → (∀ r, Input.request r ∉ s.inputs) →
    Final s ∧ ∃ t : State, core.run k s = .next t ∧ Final t ∧ t.out = s.out ∧ t.rsps = s.rsps ∧
      t.epReads = s.epReads) ∧
  (∀ s : State, s.chActive = true → ¬ Final s) ∧
  ∀ (s : State) (r : Request), Input.request r ∈ s.inputs → ¬ Final s
end

