-- ==== Sys2Proof/Laws/Frame.lean ====
section
/-! SUPPORT. The checksum, `build` and the packing of bytes on wires. -/

namespace Sys2Proof.Machine

@[simp] theorem xorAll_nil : xorAll [] = 0#8 := rfl

theorem xorAll_foldl (s : List Byte) (a : Byte) : s.foldl (· ^^^ ·) a = a ^^^ xorAll s := by
  induction s generalizing a with
  | nil => simp
  | cons b s ih => simp only [xorAll, List.foldl_cons]; rw [ih, ih]; simp [BitVec.xor_assoc]

@[simp] theorem xorAll_cons (b : Byte) (s : List Byte) : xorAll (b :: s) = b ^^^ xorAll s := by
  simp only [xorAll, List.foldl_cons]; rw [xorAll_foldl]; simp [xorAll]

@[simp] theorem xorAll_append (s t : List Byte) : xorAll (s ++ t) = xorAll s ^^^ xorAll t := by
  induction s with
  | nil => simp
  | cons b s ih => simp [ih, BitVec.xor_assoc]

@[simp] theorem xorAll_zeros (n : Nat) : xorAll (List.replicate n 0#8) = 0#8 := by
  induction n with
  | zero => rfl
  | succ n ih =>
    rw [List.replicate_succ, xorAll_cons, ih]
    rfl

@[simp] theorem padPayload_toList (s : List Byte) :
    (padPayload s).toList = (s ++ List.replicate 17 0#8).take 17 := by simp [padPayload, Vector.toList]

/-- A payload that fits is padded on the right to 17 bytes. -/
theorem padPayload_of_le {s : List Byte} (h : s.length ≤ 17) :
    (padPayload s).toList = s ++ List.replicate (17 - s.length) 0#8 := by
  rw [padPayload_toList, List.take_append, List.take_of_length_le h, List.take_replicate]
  congr 2
  omega

@[simp] theorem sealFrame_toList (c : Byte) (p : Vector Byte 17) :
    (sealFrame c p).toList = framePrefix :: c :: (p.toList ++ [framePrefix ^^^ (c ^^^ xorAll p.toList)]) := by
  simp [sealFrame, Vector.toList]

/-- `build` answers exactly where rule R105 defines it. -/
theorem build_of_le {c : Byte} {s : List Byte} (h : s.length ≤ 17) :
    build c s = some (sealFrame c (padPayload s)) := by simp [build, payloadLen, h]

theorem build_of_gt {c : Byte} {s : List Byte} (h : 17 < s.length) : build c s = none := by
  unfold build payloadLen
  rw [if_neg (by omega)]

theorem xor_three_cancel (a b x : Byte) : a ^^^ (b ^^^ (x ^^^ (a ^^^ (b ^^^ x)))) = 0#8 := by
  apply BitVec.eq_of_getLsbD_eq
  intro i _
  simp only [BitVec.getLsbD_xor, BitVec.getLsbD_zero]
  cases a.getLsbD i <;> cases b.getLsbD i <;> cases x.getLsbD i <;> rfl

theorem sealFrame_xorAll (c : Byte) (p : Vector Byte 17) : xorAll (sealFrame c p).toList = 0#8 := by
  rw [sealFrame_toList, xorAll_cons, xorAll_cons, xorAll_append, xorAll_cons, xorAll_nil, BitVec.xor_zero]
  exact xor_three_cancel framePrefix c (xorAll p.toList)

@[simp] theorem sealFrame_zero (c : Byte) (p : Vector Byte 17) : (sealFrame c p)[0] = framePrefix := rfl

@[simp] theorem sealFrame_one (c : Byte) (p : Vector Byte 17) : (sealFrame c p)[1] = c := rfl

/-- Every frame that `build` makes is well-formed (30_encoding.md R80). -/
@[simp] theorem frameOk_sealFrame (c : Byte) (p : Vector Byte 17) : frameOk (sealFrame c p) = true := by
  simp [frameOk, sealFrame_xorAll, -sealFrame_toList]

theorem bytesNat_foldl (s : List Byte) (a : Nat) :
    s.foldl (fun a b => 256 * a + b.toNat) a = 256 ^ s.length * a + bytesNat s := by
  induction s generalizing a with
  | nil => simp [bytesNat]
  | cons b s ih =>
    simp only [bytesNat, List.foldl_cons, List.length_cons]
    rw [ih, ih]
    ring

theorem bytesNat_cons (b : Byte) (s : List Byte) :
    bytesNat (b :: s) = 256 ^ s.length * b.toNat + bytesNat s := by
  simp only [bytesNat, List.foldl_cons]; rw [bytesNat_foldl]; simp [bytesNat]

theorem bytesNat_lt (s : List Byte) : bytesNat s < 256 ^ s.length := by
  induction s with
  | nil => simp [bytesNat]
  | cons b s ih =>
    rw [bytesNat_cons, List.length_cons, Nat.pow_succ]
    have := b.isLt
    nlinarith

/-- Byte `i` of the number is digit `i` from the most significant end. -/
theorem bytesNat_digit (s : List Byte) (i : Nat) (h : i < s.length) :
    bytesNat s / 256 ^ (s.length - 1 - i) % 256 = s[i].toNat := by
  induction s generalizing i with
  | nil => simp at h
  | cons b s ih =>
    have hb := b.isLt
    have hs := bytesNat_lt s
    rw [bytesNat_cons]
    cases i with
    | zero =>
      simp only [List.length_cons, List.getElem_cons_zero]
      rw [show s.length + 1 - 1 - 0 = s.length by omega, Nat.mul_add_div (by positivity),
        Nat.div_eq_of_lt hs]
      omega
    | succ i =>
      simp only [List.length_cons, List.getElem_cons_succ] at h ⊢
      rw [show s.length + 1 - 1 - (i + 1) = s.length - 1 - i by omega, ← ih i (by omega)]
      have : 256 ^ s.length = 256 ^ (s.length - 1 - i) * (256 * 256 ^ i) := by
        rw [← Nat.pow_succ', ← Nat.pow_add]; congr 1; omega
      rw [this, Nat.mul_assoc, Nat.mul_add_div (by positivity), Nat.mul_assoc, Nat.mul_add_mod]

@[simp] theorem wireOf_toNat {n : Nat} (v : Vector Byte n) : (wireOf v).toNat = bytesNat v.toList := by
  simp only [wireOf, BitVec.toNat_ofNat]
  apply Nat.mod_eq_of_lt
  have := bytesNat_lt v.toList
  simpa [Nat.pow_mul] using this

/-- The lane at position `i` of a wire. -/
theorem lanesOf_getElem (n : Nat) (w : BitVec (8 * n)) (i : Nat) (h : i < n) :
    (lanesOf n w)[i] = w.extractLsb' (8 * (n - 1 - i)) 8 := by simp [lanesOf]

/-- Lanes put on a wire are read off it again. -/
@[simp] theorem lanesOf_wireOf {n : Nat} (v : Vector Byte n) : lanesOf n (wireOf v) = v := by
  apply Vector.ext
  intro i h
  rw [lanesOf_getElem _ _ _ h]
  apply BitVec.eq_of_toNat_eq
  have hd := bytesNat_digit v.toList i (by simpa using h)
  simp only [BitVec.extractLsb'_toNat, wireOf_toNat]
  rw [Nat.shiftRight_eq_div_pow, show (2 : Nat) ^ (8 * (n - 1 - i)) = 256 ^ (n - 1 - i) by rw [Nat.pow_mul]]
  simpa using hd

/-- A byte of a padded payload. -/
theorem padPayload_getElem (s : List Byte) (i : Nat) (h : i < 17) : (padPayload s)[i] = s.getD i 0#8 := by
  have hl : (padPayload s)[i] = (padPayload s).toList[i]'(by simpa using h) := by
    simp only [Vector.getElem_toList]
  rw [hl]
  simp only [padPayload_toList, List.getElem_take, List.getElem_append, List.getElem_replicate]
  split
  · rename_i hi
    rw [List.getD_eq_getElem _ _ hi]
  · rename_i hi
    rw [List.getD_eq_default _ _ (by omega)]

/-- A payload byte of a frame. -/
theorem sealFrame_getElem (c : Byte) (p : Vector Byte 17) (i : Nat) (h : i < 17) : (sealFrame c p)[i + 2] = p[i] := by
  have hl : (sealFrame c p)[i + 2] = (sealFrame c p).toList[i + 2]'(by simp; omega) := by
    simp only [Vector.getElem_toList]
  rw [hl]
  simp [sealFrame_toList, h]

/-- Byte 19 of a frame is the checksum of the others where the twenty XOR to zero. -/
theorem checksum_of_xorAll {a b x : Byte} {l : List Byte} (h : xorAll (a :: b :: (l ++ [x])) = 0#8) :
    x = a ^^^ (b ^^^ xorAll l) := by
  simp only [xorAll_cons, xorAll_append, xorAll_nil] at h
  apply BitVec.eq_of_getLsbD_eq
  intro i hi
  have hb := congrArg (fun y => y.getLsbD i) h
  simp only [BitVec.getLsbD_xor, BitVec.getLsbD_zero] at hb ⊢
  revert hb
  cases a.getLsbD i <;> cases b.getLsbD i <;> cases x.getLsbD i <;> cases (xorAll l).getLsbD i <;> simp

theorem frame_toList (f : Frame) :
    f.toList = f[0] :: f[1] :: ((List.range 17).map (fun i => f.toList.getD (i + 2) 0#8) ++ [f[19]]) := by
  apply List.ext_getElem
  · simp
  · intro i h1 h2
    have hi : i < 20 := by simpa using h1
    interval_cases i <;> simp

/-- A well-formed frame is the frame built from its command byte and its payload (30_encoding.md R80). -/
theorem eq_sealFrame {f : Frame} {c : Byte} {p : Vector Byte 17} (h0 : f[0] = framePrefix)
    (hx : xorAll f.toList = 0#8) (h1 : f[1] = c) (hp : ∀ i (h : i < 17), f[i + 2] = p[i]) : f = sealFrame c p := by
  apply Vector.toList_inj.1
  have hl : (List.range 17).map (fun i => f.toList.getD (i + 2) 0#8) = p.toList := by
    apply List.ext_getElem
    · simp
    · intro i g1 g2
      have hi : i < 17 := by simpa using g1
      rw [List.getElem_map, List.getElem_range, List.getD_eq_getElem _ _ (by simp; omega),
        Vector.getElem_toList, Vector.getElem_toList, hp i hi]
  rw [frame_toList, hl, h0, h1] at hx
  rw [sealFrame_toList, frame_toList f, hl, h0, h1, checksum_of_xorAll hx]

end Sys2Proof.Machine
end

