-- ==== Sys2Proof/Laws/Memory.lean ====
section
/-! SUPPORT. The payload memory: a write is read back, leaves every other offset alone, keeps the canonical form. -/

namespace Sys2Proof.Machine

@[simp] theorem Memory.read_nil (a : Nat) : Memory.read [] a = Memory.unwritten := rfl

theorem Memory.read_cons (k : Nat) (c : Byte) (m : List Host.Cell) (a : Nat) :
    Memory.read ((k, c) :: m) a = if k = a then c else Memory.read m a := rfl

theorem Memory.wf_nil : Memory.wf [] := by simp [Memory.wf]

theorem Memory.wf_cons (k : Nat) (c : Byte) (m : List Host.Cell) :
    Memory.wf ((k, c) :: m) ↔
      (∀ x ∈ m, k < x.1) ∧ k < 65536 ∧ c ≠ Memory.unwritten ∧ Memory.wf m := by
  simp only [Memory.wf, List.map_cons, List.pairwise_cons, List.mem_map, List.mem_cons]
  constructor
  · rintro ⟨⟨h1, h2⟩, h3⟩
    exact ⟨fun x hx => h1 _ ⟨x, hx, rfl⟩, (h3 _ (.inl rfl)).1, (h3 _ (.inl rfl)).2, h2,
      fun x hx => h3 x (.inr hx)⟩
  · rintro ⟨h1, h2, h3, h4, h5⟩
    refine ⟨⟨?_, h4⟩, ?_⟩
    · rintro _ ⟨x, hx, rfl⟩
      exact h1 x hx
    · rintro x (rfl | hx)
      · exact ⟨h2, h3⟩
      · exact h5 x hx

/-- Below the first listed offset nothing is listed. -/
theorem Memory.read_of_lt (m : List Host.Cell) (a : Nat) (h : ∀ x ∈ m, a < x.1) :
    Memory.read m a = Memory.unwritten := by
  induction m with
  | nil => rfl
  | cons x m ih =>
    have hx := h x (by simp)
    rw [show x = (x.1, x.2) from rfl, Memory.read_cons, if_neg (by omega)]
    exact ih fun y hy => h y (by simp [hy])

theorem Memory.mem_write (m : List Host.Cell) (a : Nat) (b : Byte) (x : Host.Cell)
    (h : x ∈ Memory.write m a b) : x = (a, b) ∧ b ≠ Memory.unwritten ∨ x ∈ m := by
  induction m with
  | nil => simp only [Memory.write] at h; split at h <;> simp_all
  | cons c m ih =>
    obtain ⟨k, c⟩ := c
    simp only [Memory.write] at h
    split at h
    · split at h <;> simp_all
    · split at h
      · split at h
        · exact .inr (by simp [h])
        · simp_all; tauto
      · rcases List.mem_cons.1 h with rfl | h
        · simp
        · rcases ih h with h | h <;> simp [h]

/-- A write keeps the canonical form. -/
theorem Memory.write_wf (m : List Host.Cell) (a : Nat) (b : Byte) (ha : a < 65536) (h : Memory.wf m) :
    Memory.wf (Memory.write m a b) := by
  induction m with
  | nil =>
    simp only [Memory.write]
    split
    · exact Memory.wf_nil
    · rw [Memory.wf_cons]
      exact ⟨by simp, ha, by assumption, Memory.wf_nil⟩
  | cons x m ih =>
    obtain ⟨k, c⟩ := x
    have h0 := h
    obtain ⟨h1, h2, h3, h4⟩ := (Memory.wf_cons k c m).1 h
    simp only [Memory.write]
    split
    · split
      · exact h0
      · rw [Memory.wf_cons]
        refine ⟨?_, ha, by assumption, h0⟩
        rintro x hx
        rcases List.mem_cons.1 hx with rfl | hx
        · assumption
        · have := h1 x hx; omega
    · split
      · split
        · exact h4
        · rw [Memory.wf_cons]
          exact ⟨fun x hx => by have := h1 x hx; omega, ha, by assumption, h4⟩
      · rw [Memory.wf_cons]
        refine ⟨?_, h2, h3, ih h4⟩
        intro x hx
        rcases Memory.mem_write m a b x hx with ⟨rfl, -⟩ | hx
        · show k < a; omega
        · exact h1 x hx

/-- A write is read back at its offset. -/
theorem Memory.read_write_same (m : List Host.Cell) (a : Nat) (b : Byte) (h : Memory.wf m) :
    Memory.read (Memory.write m a b) a = b := by
  induction m with
  | nil => simp only [Memory.write]; split <;> simp_all [Memory.read]
  | cons x m ih =>
    obtain ⟨k, c⟩ := x
    obtain ⟨h1, -, -, h4⟩ := (Memory.wf_cons k c m).1 h
    simp only [Memory.write]
    split
    · split
      · rename_i hlt hb
        rw [hb]
        apply Memory.read_of_lt
        intro x hx
        rcases List.mem_cons.1 hx with rfl | hx
        · exact hlt
        · have := h1 x hx; omega
      · simp [Memory.read]
    · split
      · rename_i _ hk
        subst hk
        split
        · rename_i hb
          rw [hb]
          exact Memory.read_of_lt m a h1
        · simp [Memory.read]
      · rw [Memory.read_cons, if_neg (by omega)]
        exact ih h4

/-- A write leaves every other offset alone. -/
theorem Memory.read_write_other (m : List Host.Cell) (a : Nat) (b : Byte) (x : Nat) (hx : x ≠ a) :
    Memory.read (Memory.write m a b) x = Memory.read m x := by
  induction m with
  | nil =>
    simp only [Memory.write]
    split
    · rfl
    · rw [Memory.read_cons, if_neg (by omega)]
  | cons c m ih =>
    obtain ⟨k, c⟩ := c
    simp only [Memory.write]
    split
    · split
      · rfl
      · rw [Memory.read_cons, if_neg (by omega)]
    · split
      · rename_i _ hk
        subst hk
        split
        · rw [Memory.read_cons, if_neg (by omega)]
        · rw [Memory.read_cons, Memory.read_cons, if_neg (by omega), if_neg (by omega)]
      · rw [Memory.read_cons, Memory.read_cons, ih]

end Sys2Proof.Machine
end

