-- ==== Sys2Proof/Laws/State.lean ====
section
/-! SUPPORT. What each named update of State does to each field: one lemma per field per update. -/

namespace Sys2Proof.Machine

variable (s : State)

@[simp] theorem setSegErr_segLow : (setSegErr s).segLow = s.segLow := rfl
@[simp] theorem setSegErr_segHigh : (setSegErr s).segHigh = s.segHigh := rfl
@[simp] theorem setSegErr_segErr : (setSegErr s).segErr = true := rfl
@[simp] theorem setSegErr_chActive : (setSegErr s).chActive = s.chActive := rfl
@[simp] theorem setSegErr_chCmd : (setSegErr s).chCmd = s.chCmd := rfl
@[simp] theorem setSegErr_chHlen : (setSegErr s).chHlen = s.chHlen := rfl
@[simp] theorem setSegErr_chHdr : (setSegErr s).chHdr = s.chHdr := rfl
@[simp] theorem setSegErr_chLen : (setSegErr s).chLen = s.chLen := rfl
@[simp] theorem setSegErr_chTotal : (setSegErr s).chTotal = s.chTotal := rfl
@[simp] theorem setSegErr_chSeq : (setSegErr s).chSeq = s.chSeq := rfl
@[simp] theorem setSegErr_ep : (setSegErr s).ep = s.ep := rfl
@[simp] theorem setSegErr_epReads : (setSegErr s).epReads = s.epReads := rfl
@[simp] theorem setSegErr_out : (setSegErr s).out = s.out := rfl
@[simp] theorem setSegErr_rsps : (setSegErr s).rsps = s.rsps := rfl
@[simp] theorem setSegErr_inputs : (setSegErr s).inputs = s.inputs := rfl
@[simp] theorem setSegErr_cfg : (setSegErr s).cfg = s.cfg := rfl

@[simp] theorem clearSegErr_segLow : (clearSegErr s).segLow = s.segLow := rfl
@[simp] theorem clearSegErr_segHigh : (clearSegErr s).segHigh = s.segHigh := rfl
@[simp] theorem clearSegErr_segErr : (clearSegErr s).segErr = false := rfl
@[simp] theorem clearSegErr_chActive : (clearSegErr s).chActive = s.chActive := rfl
@[simp] theorem clearSegErr_chCmd : (clearSegErr s).chCmd = s.chCmd := rfl
@[simp] theorem clearSegErr_chHlen : (clearSegErr s).chHlen = s.chHlen := rfl
@[simp] theorem clearSegErr_chHdr : (clearSegErr s).chHdr = s.chHdr := rfl
@[simp] theorem clearSegErr_chLen : (clearSegErr s).chLen = s.chLen := rfl
@[simp] theorem clearSegErr_chTotal : (clearSegErr s).chTotal = s.chTotal := rfl
@[simp] theorem clearSegErr_chSeq : (clearSegErr s).chSeq = s.chSeq := rfl
@[simp] theorem clearSegErr_ep : (clearSegErr s).ep = s.ep := rfl
@[simp] theorem clearSegErr_epReads : (clearSegErr s).epReads = s.epReads := rfl
@[simp] theorem clearSegErr_out : (clearSegErr s).out = s.out := rfl
@[simp] theorem clearSegErr_rsps : (clearSegErr s).rsps = s.rsps := rfl
@[simp] theorem clearSegErr_inputs : (clearSegErr s).inputs = s.inputs := rfl
@[simp] theorem clearSegErr_cfg : (clearSegErr s).cfg = s.cfg := rfl

@[simp] theorem setActive_segLow : (setActive s).segLow = s.segLow := rfl
@[simp] theorem setActive_segHigh : (setActive s).segHigh = s.segHigh := rfl
@[simp] theorem setActive_segErr : (setActive s).segErr = s.segErr := rfl
@[simp] theorem setActive_chActive : (setActive s).chActive = true := rfl
@[simp] theorem setActive_chCmd : (setActive s).chCmd = s.chCmd := rfl
@[simp] theorem setActive_chHlen : (setActive s).chHlen = s.chHlen := rfl
@[simp] theorem setActive_chHdr : (setActive s).chHdr = s.chHdr := rfl
@[simp] theorem setActive_chLen : (setActive s).chLen = s.chLen := rfl
@[simp] theorem setActive_chTotal : (setActive s).chTotal = s.chTotal := rfl
@[simp] theorem setActive_chSeq : (setActive s).chSeq = s.chSeq := rfl
@[simp] theorem setActive_ep : (setActive s).ep = s.ep := rfl
@[simp] theorem setActive_epReads : (setActive s).epReads = s.epReads := rfl
@[simp] theorem setActive_out : (setActive s).out = s.out := rfl
@[simp] theorem setActive_rsps : (setActive s).rsps = s.rsps := rfl
@[simp] theorem setActive_inputs : (setActive s).inputs = s.inputs := rfl
@[simp] theorem setActive_cfg : (setActive s).cfg = s.cfg := rfl

@[simp] theorem clearActive_segLow : (clearActive s).segLow = s.segLow := rfl
@[simp] theorem clearActive_segHigh : (clearActive s).segHigh = s.segHigh := rfl
@[simp] theorem clearActive_segErr : (clearActive s).segErr = s.segErr := rfl
@[simp] theorem clearActive_chActive : (clearActive s).chActive = false := rfl
@[simp] theorem clearActive_chCmd : (clearActive s).chCmd = s.chCmd := rfl
@[simp] theorem clearActive_chHlen : (clearActive s).chHlen = s.chHlen := rfl
@[simp] theorem clearActive_chHdr : (clearActive s).chHdr = s.chHdr := rfl
@[simp] theorem clearActive_chLen : (clearActive s).chLen = s.chLen := rfl
@[simp] theorem clearActive_chTotal : (clearActive s).chTotal = s.chTotal := rfl
@[simp] theorem clearActive_chSeq : (clearActive s).chSeq = s.chSeq := rfl
@[simp] theorem clearActive_ep : (clearActive s).ep = s.ep := rfl
@[simp] theorem clearActive_epReads : (clearActive s).epReads = s.epReads := rfl
@[simp] theorem clearActive_out : (clearActive s).out = s.out := rfl
@[simp] theorem clearActive_rsps : (clearActive s).rsps = s.rsps := rfl
@[simp] theorem clearActive_inputs : (clearActive s).inputs = s.inputs := rfl
@[simp] theorem clearActive_cfg : (clearActive s).cfg = s.cfg := rfl

@[simp] theorem emit_segLow (f : Frame) : (emit f s).segLow = s.segLow := rfl
@[simp] theorem emit_segHigh (f : Frame) : (emit f s).segHigh = s.segHigh := rfl
@[simp] theorem emit_segErr (f : Frame) : (emit f s).segErr = s.segErr := rfl
@[simp] theorem emit_chActive (f : Frame) : (emit f s).chActive = s.chActive := rfl
@[simp] theorem emit_chCmd (f : Frame) : (emit f s).chCmd = s.chCmd := rfl
@[simp] theorem emit_chHlen (f : Frame) : (emit f s).chHlen = s.chHlen := rfl
@[simp] theorem emit_chHdr (f : Frame) : (emit f s).chHdr = s.chHdr := rfl
@[simp] theorem emit_chLen (f : Frame) : (emit f s).chLen = s.chLen := rfl
@[simp] theorem emit_chTotal (f : Frame) : (emit f s).chTotal = s.chTotal := rfl
@[simp] theorem emit_chSeq (f : Frame) : (emit f s).chSeq = s.chSeq := rfl
@[simp] theorem emit_ep (f : Frame) : (emit f s).ep = s.ep := rfl
@[simp] theorem emit_epReads (f : Frame) : (emit f s).epReads = s.epReads := rfl
@[simp] theorem emit_out (f : Frame) : (emit f s).out = s.out ++ [f] := rfl
@[simp] theorem emit_rsps (f : Frame) : (emit f s).rsps = s.rsps := rfl
@[simp] theorem emit_inputs (f : Frame) : (emit f s).inputs = s.inputs := rfl
@[simp] theorem emit_cfg (f : Frame) : (emit f s).cfg = s.cfg := rfl

@[simp] theorem respond_segLow (r : Response) : (respond r s).segLow = s.segLow := rfl
@[simp] theorem respond_segHigh (r : Response) : (respond r s).segHigh = s.segHigh := rfl
@[simp] theorem respond_segErr (r : Response) : (respond r s).segErr = s.segErr := rfl
@[simp] theorem respond_chActive (r : Response) : (respond r s).chActive = s.chActive := rfl
@[simp] theorem respond_chCmd (r : Response) : (respond r s).chCmd = s.chCmd := rfl
@[simp] theorem respond_chHlen (r : Response) : (respond r s).chHlen = s.chHlen := rfl
@[simp] theorem respond_chHdr (r : Response) : (respond r s).chHdr = s.chHdr := rfl
@[simp] theorem respond_chLen (r : Response) : (respond r s).chLen = s.chLen := rfl
@[simp] theorem respond_chTotal (r : Response) : (respond r s).chTotal = s.chTotal := rfl
@[simp] theorem respond_chSeq (r : Response) : (respond r s).chSeq = s.chSeq := rfl
@[simp] theorem respond_ep (r : Response) : (respond r s).ep = s.ep := rfl
@[simp] theorem respond_epReads (r : Response) : (respond r s).epReads = s.epReads := rfl
@[simp] theorem respond_out (r : Response) : (respond r s).out = s.out := rfl
@[simp] theorem respond_rsps (r : Response) : (respond r s).rsps = s.rsps ++ [r] := rfl
@[simp] theorem respond_inputs (r : Response) : (respond r s).inputs = s.inputs := rfl
@[simp] theorem respond_cfg (r : Response) : (respond r s).cfg = s.cfg := rfl

@[simp] theorem respondOk_segLow : (respondOk s).segLow = s.segLow := rfl
@[simp] theorem respondOk_segHigh : (respondOk s).segHigh = s.segHigh := rfl
@[simp] theorem respondOk_segErr : (respondOk s).segErr = s.segErr := rfl
@[simp] theorem respondOk_chActive : (respondOk s).chActive = s.chActive := rfl
@[simp] theorem respondOk_chCmd : (respondOk s).chCmd = s.chCmd := rfl
@[simp] theorem respondOk_chHlen : (respondOk s).chHlen = s.chHlen := rfl
@[simp] theorem respondOk_chHdr : (respondOk s).chHdr = s.chHdr := rfl
@[simp] theorem respondOk_chLen : (respondOk s).chLen = s.chLen := rfl
@[simp] theorem respondOk_chTotal : (respondOk s).chTotal = s.chTotal := rfl
@[simp] theorem respondOk_chSeq : (respondOk s).chSeq = s.chSeq := rfl
@[simp] theorem respondOk_ep : (respondOk s).ep = s.ep := rfl
@[simp] theorem respondOk_epReads : (respondOk s).epReads = s.epReads := rfl
@[simp] theorem respondOk_out : (respondOk s).out = s.out := rfl
@[simp] theorem respondOk_rsps : (respondOk s).rsps = s.rsps ++ [okResponse] := rfl
@[simp] theorem respondOk_inputs : (respondOk s).inputs = s.inputs := rfl
@[simp] theorem respondOk_cfg : (respondOk s).cfg = s.cfg := rfl

@[simp] theorem raise_segLow (e : Status) : (raise e s).segLow = s.segLow := rfl
@[simp] theorem raise_segHigh (e : Status) : (raise e s).segHigh = s.segHigh := rfl
@[simp] theorem raise_segErr (e : Status) : (raise e s).segErr = s.segErr := rfl
@[simp] theorem raise_chActive (e : Status) : (raise e s).chActive = s.chActive := rfl
@[simp] theorem raise_chCmd (e : Status) : (raise e s).chCmd = s.chCmd := rfl
@[simp] theorem raise_chHlen (e : Status) : (raise e s).chHlen = s.chHlen := rfl
@[simp] theorem raise_chHdr (e : Status) : (raise e s).chHdr = s.chHdr := rfl
@[simp] theorem raise_chLen (e : Status) : (raise e s).chLen = s.chLen := rfl
@[simp] theorem raise_chTotal (e : Status) : (raise e s).chTotal = s.chTotal := rfl
@[simp] theorem raise_chSeq (e : Status) : (raise e s).chSeq = s.chSeq := rfl
@[simp] theorem raise_ep (e : Status) : (raise e s).ep = s.ep := rfl
@[simp] theorem raise_epReads (e : Status) : (raise e s).epReads = s.epReads := rfl
@[simp] theorem raise_out (e : Status) : (raise e s).out = s.out := rfl
@[simp] theorem raise_rsps (e : Status) : (raise e s).rsps = s.rsps ++ [errorResponse e] := rfl
@[simp] theorem raise_inputs (e : Status) : (raise e s).inputs = s.inputs := rfl
@[simp] theorem raise_cfg (e : Status) : (raise e s).cfg = s.cfg := rfl

@[simp] theorem writeMask_segLow (l h : Byte) : (writeMask l h s).segLow = l := rfl
@[simp] theorem writeMask_segHigh (l h : Byte) : (writeMask l h s).segHigh = h := rfl
@[simp] theorem writeMask_segErr (l h : Byte) : (writeMask l h s).segErr = s.segErr := rfl
@[simp] theorem writeMask_chActive (l h : Byte) : (writeMask l h s).chActive = s.chActive := rfl
@[simp] theorem writeMask_chCmd (l h : Byte) : (writeMask l h s).chCmd = s.chCmd := rfl
@[simp] theorem writeMask_chHlen (l h : Byte) : (writeMask l h s).chHlen = s.chHlen := rfl
@[simp] theorem writeMask_chHdr (l h : Byte) : (writeMask l h s).chHdr = s.chHdr := rfl
@[simp] theorem writeMask_chLen (l h : Byte) : (writeMask l h s).chLen = s.chLen := rfl
@[simp] theorem writeMask_chTotal (l h : Byte) : (writeMask l h s).chTotal = s.chTotal := rfl
@[simp] theorem writeMask_chSeq (l h : Byte) : (writeMask l h s).chSeq = s.chSeq := rfl
@[simp] theorem writeMask_ep (l h : Byte) : (writeMask l h s).ep = s.ep := rfl
@[simp] theorem writeMask_epReads (l h : Byte) : (writeMask l h s).epReads = s.epReads := rfl
@[simp] theorem writeMask_out (l h : Byte) : (writeMask l h s).out = s.out := rfl
@[simp] theorem writeMask_rsps (l h : Byte) : (writeMask l h s).rsps = s.rsps := rfl
@[simp] theorem writeMask_inputs (l h : Byte) : (writeMask l h s).inputs = s.inputs := rfl
@[simp] theorem writeMask_cfg (l h : Byte) : (writeMask l h s).cfg = s.cfg := rfl

@[simp] theorem loadSequencer_segLow (c : Byte) (n : BitVec 4) (h : Vector Byte 14) (l : BitVec 16) (t : Byte) : (loadSequencer c n h l t s).segLow = s.segLow := rfl
@[simp] theorem loadSequencer_segHigh (c : Byte) (n : BitVec 4) (h : Vector Byte 14) (l : BitVec 16) (t : Byte) : (loadSequencer c n h l t s).segHigh = s.segHigh := rfl
@[simp] theorem loadSequencer_segErr (c : Byte) (n : BitVec 4) (h : Vector Byte 14) (l : BitVec 16) (t : Byte) : (loadSequencer c n h l t s).segErr = s.segErr := rfl
@[simp] theorem loadSequencer_chActive (c : Byte) (n : BitVec 4) (h : Vector Byte 14) (l : BitVec 16) (t : Byte) : (loadSequencer c n h l t s).chActive = s.chActive := rfl
@[simp] theorem loadSequencer_chCmd (c : Byte) (n : BitVec 4) (h : Vector Byte 14) (l : BitVec 16) (t : Byte) : (loadSequencer c n h l t s).chCmd = c := rfl
@[simp] theorem loadSequencer_chHlen (c : Byte) (n : BitVec 4) (h : Vector Byte 14) (l : BitVec 16) (t : Byte) : (loadSequencer c n h l t s).chHlen = n := rfl
@[simp] theorem loadSequencer_chHdr (c : Byte) (n : BitVec 4) (h : Vector Byte 14) (l : BitVec 16) (t : Byte) : (loadSequencer c n h l t s).chHdr = h := rfl
@[simp] theorem loadSequencer_chLen (c : Byte) (n : BitVec 4) (h : Vector Byte 14) (l : BitVec 16) (t : Byte) : (loadSequencer c n h l t s).chLen = l := rfl
@[simp] theorem loadSequencer_chTotal (c : Byte) (n : BitVec 4) (h : Vector Byte 14) (l : BitVec 16) (t : Byte) : (loadSequencer c n h l t s).chTotal = t := rfl
@[simp] theorem loadSequencer_chSeq (c : Byte) (n : BitVec 4) (h : Vector Byte 14) (l : BitVec 16) (t : Byte) : (loadSequencer c n h l t s).chSeq = 0 := rfl
@[simp] theorem loadSequencer_ep (c : Byte) (n : BitVec 4) (h : Vector Byte 14) (l : BitVec 16) (t : Byte) : (loadSequencer c n h l t s).ep = s.ep := rfl
@[simp] theorem loadSequencer_epReads (c : Byte) (n : BitVec 4) (h : Vector Byte 14) (l : BitVec 16) (t : Byte) : (loadSequencer c n h l t s).epReads = s.epReads := rfl
@[simp] theorem loadSequencer_out (c : Byte) (n : BitVec 4) (h : Vector Byte 14) (l : BitVec 16) (t : Byte) : (loadSequencer c n h l t s).out = s.out := rfl
@[simp] theorem loadSequencer_rsps (c : Byte) (n : BitVec 4) (h : Vector Byte 14) (l : BitVec 16) (t : Byte) : (loadSequencer c n h l t s).rsps = s.rsps := rfl
@[simp] theorem loadSequencer_inputs (c : Byte) (n : BitVec 4) (h : Vector Byte 14) (l : BitVec 16) (t : Byte) : (loadSequencer c n h l t s).inputs = s.inputs := rfl
@[simp] theorem loadSequencer_cfg (c : Byte) (n : BitVec 4) (h : Vector Byte 14) (l : BitVec 16) (t : Byte) : (loadSequencer c n h l t s).cfg = s.cfg := rfl

@[simp] theorem writeSeq_segLow (v : Byte) : (writeSeq v s).segLow = s.segLow := rfl
@[simp] theorem writeSeq_segHigh (v : Byte) : (writeSeq v s).segHigh = s.segHigh := rfl
@[simp] theorem writeSeq_segErr (v : Byte) : (writeSeq v s).segErr = s.segErr := rfl
@[simp] theorem writeSeq_chActive (v : Byte) : (writeSeq v s).chActive = s.chActive := rfl
@[simp] theorem writeSeq_chCmd (v : Byte) : (writeSeq v s).chCmd = s.chCmd := rfl
@[simp] theorem writeSeq_chHlen (v : Byte) : (writeSeq v s).chHlen = s.chHlen := rfl
@[simp] theorem writeSeq_chHdr (v : Byte) : (writeSeq v s).chHdr = s.chHdr := rfl
@[simp] theorem writeSeq_chLen (v : Byte) : (writeSeq v s).chLen = s.chLen := rfl
@[simp] theorem writeSeq_chTotal (v : Byte) : (writeSeq v s).chTotal = s.chTotal := rfl
@[simp] theorem writeSeq_chSeq (v : Byte) : (writeSeq v s).chSeq = v := rfl
@[simp] theorem writeSeq_ep (v : Byte) : (writeSeq v s).ep = s.ep := rfl
@[simp] theorem writeSeq_epReads (v : Byte) : (writeSeq v s).epReads = s.epReads := rfl
@[simp] theorem writeSeq_out (v : Byte) : (writeSeq v s).out = s.out := rfl
@[simp] theorem writeSeq_rsps (v : Byte) : (writeSeq v s).rsps = s.rsps := rfl
@[simp] theorem writeSeq_inputs (v : Byte) : (writeSeq v s).inputs = s.inputs := rfl
@[simp] theorem writeSeq_cfg (v : Byte) : (writeSeq v s).cfg = s.cfg := rfl

@[simp] theorem logReads_segLow (o : List Offset) : (logReads o s).segLow = s.segLow := rfl
@[simp] theorem logReads_segHigh (o : List Offset) : (logReads o s).segHigh = s.segHigh := rfl
@[simp] theorem logReads_segErr (o : List Offset) : (logReads o s).segErr = s.segErr := rfl
@[simp] theorem logReads_chActive (o : List Offset) : (logReads o s).chActive = s.chActive := rfl
@[simp] theorem logReads_chCmd (o : List Offset) : (logReads o s).chCmd = s.chCmd := rfl
@[simp] theorem logReads_chHlen (o : List Offset) : (logReads o s).chHlen = s.chHlen := rfl
@[simp] theorem logReads_chHdr (o : List Offset) : (logReads o s).chHdr = s.chHdr := rfl
@[simp] theorem logReads_chLen (o : List Offset) : (logReads o s).chLen = s.chLen := rfl
@[simp] theorem logReads_chTotal (o : List Offset) : (logReads o s).chTotal = s.chTotal := rfl
@[simp] theorem logReads_chSeq (o : List Offset) : (logReads o s).chSeq = s.chSeq := rfl
@[simp] theorem logReads_ep (o : List Offset) : (logReads o s).ep = s.ep := rfl
@[simp] theorem logReads_epReads (o : List Offset) : (logReads o s).epReads = s.epReads ++ o := rfl
@[simp] theorem logReads_out (o : List Offset) : (logReads o s).out = s.out := rfl
@[simp] theorem logReads_rsps (o : List Offset) : (logReads o s).rsps = s.rsps := rfl
@[simp] theorem logReads_inputs (o : List Offset) : (logReads o s).inputs = s.inputs := rfl
@[simp] theorem logReads_cfg (o : List Offset) : (logReads o s).cfg = s.cfg := rfl

@[simp] theorem hostWrite_segLow (o : Offset) (b : Byte) : (hostWrite o b s).segLow = s.segLow := rfl
@[simp] theorem hostWrite_segHigh (o : Offset) (b : Byte) : (hostWrite o b s).segHigh = s.segHigh := rfl
@[simp] theorem hostWrite_segErr (o : Offset) (b : Byte) : (hostWrite o b s).segErr = s.segErr := rfl
@[simp] theorem hostWrite_chActive (o : Offset) (b : Byte) : (hostWrite o b s).chActive = s.chActive := rfl
@[simp] theorem hostWrite_chCmd (o : Offset) (b : Byte) : (hostWrite o b s).chCmd = s.chCmd := rfl
@[simp] theorem hostWrite_chHlen (o : Offset) (b : Byte) : (hostWrite o b s).chHlen = s.chHlen := rfl
@[simp] theorem hostWrite_chHdr (o : Offset) (b : Byte) : (hostWrite o b s).chHdr = s.chHdr := rfl
@[simp] theorem hostWrite_chLen (o : Offset) (b : Byte) : (hostWrite o b s).chLen = s.chLen := rfl
@[simp] theorem hostWrite_chTotal (o : Offset) (b : Byte) : (hostWrite o b s).chTotal = s.chTotal := rfl
@[simp] theorem hostWrite_chSeq (o : Offset) (b : Byte) : (hostWrite o b s).chSeq = s.chSeq := rfl
@[simp] theorem hostWrite_ep (o : Offset) (b : Byte) : (hostWrite o b s).ep = Memory.write s.ep o.toNat b := rfl
@[simp] theorem hostWrite_epReads (o : Offset) (b : Byte) : (hostWrite o b s).epReads = s.epReads := rfl
@[simp] theorem hostWrite_out (o : Offset) (b : Byte) : (hostWrite o b s).out = s.out := rfl
@[simp] theorem hostWrite_rsps (o : Offset) (b : Byte) : (hostWrite o b s).rsps = s.rsps := rfl
@[simp] theorem hostWrite_inputs (o : Offset) (b : Byte) : (hostWrite o b s).inputs = s.inputs := rfl
@[simp] theorem hostWrite_cfg (o : Offset) (b : Byte) : (hostWrite o b s).cfg = s.cfg := rfl

@[simp] theorem withInputs_segLow (r : List Input) : (withInputs r s).segLow = s.segLow := rfl
@[simp] theorem withInputs_segHigh (r : List Input) : (withInputs r s).segHigh = s.segHigh := rfl
@[simp] theorem withInputs_segErr (r : List Input) : (withInputs r s).segErr = s.segErr := rfl
@[simp] theorem withInputs_chActive (r : List Input) : (withInputs r s).chActive = s.chActive := rfl
@[simp] theorem withInputs_chCmd (r : List Input) : (withInputs r s).chCmd = s.chCmd := rfl
@[simp] theorem withInputs_chHlen (r : List Input) : (withInputs r s).chHlen = s.chHlen := rfl
@[simp] theorem withInputs_chHdr (r : List Input) : (withInputs r s).chHdr = s.chHdr := rfl
@[simp] theorem withInputs_chLen (r : List Input) : (withInputs r s).chLen = s.chLen := rfl
@[simp] theorem withInputs_chTotal (r : List Input) : (withInputs r s).chTotal = s.chTotal := rfl
@[simp] theorem withInputs_chSeq (r : List Input) : (withInputs r s).chSeq = s.chSeq := rfl
@[simp] theorem withInputs_ep (r : List Input) : (withInputs r s).ep = s.ep := rfl
@[simp] theorem withInputs_epReads (r : List Input) : (withInputs r s).epReads = s.epReads := rfl
@[simp] theorem withInputs_out (r : List Input) : (withInputs r s).out = s.out := rfl
@[simp] theorem withInputs_rsps (r : List Input) : (withInputs r s).rsps = s.rsps := rfl
@[simp] theorem withInputs_inputs (r : List Input) : (withInputs r s).inputs = r := rfl
@[simp] theorem withInputs_cfg (r : List Input) : (withInputs r s).cfg = s.cfg := rfl

@[simp] theorem resetRegisters_segLow : (resetRegisters s).segLow = 0x00 := rfl
@[simp] theorem resetRegisters_segHigh : (resetRegisters s).segHigh = 0x00 := rfl
@[simp] theorem resetRegisters_segErr : (resetRegisters s).segErr = false := rfl
@[simp] theorem resetRegisters_chActive : (resetRegisters s).chActive = false := rfl
@[simp] theorem resetRegisters_chCmd : (resetRegisters s).chCmd = 0x00 := rfl
@[simp] theorem resetRegisters_chHlen : (resetRegisters s).chHlen = 0 := rfl
@[simp] theorem resetRegisters_chHdr : (resetRegisters s).chHdr = Vector.replicate 14 0x00 := rfl
@[simp] theorem resetRegisters_chLen : (resetRegisters s).chLen = 0 := rfl
@[simp] theorem resetRegisters_chTotal : (resetRegisters s).chTotal = 0x00 := rfl
@[simp] theorem resetRegisters_chSeq : (resetRegisters s).chSeq = 0x00 := rfl
@[simp] theorem resetRegisters_ep : (resetRegisters s).ep = s.ep := rfl
@[simp] theorem resetRegisters_epReads : (resetRegisters s).epReads = s.epReads := rfl
@[simp] theorem resetRegisters_out : (resetRegisters s).out = s.out := rfl
@[simp] theorem resetRegisters_rsps : (resetRegisters s).rsps = s.rsps := rfl
@[simp] theorem resetRegisters_inputs : (resetRegisters s).inputs = s.inputs := rfl
@[simp] theorem resetRegisters_cfg : (resetRegisters s).cfg = s.cfg := rfl

end Sys2Proof.Machine
end

