-- ==== Sys2Proof/Laws/Ops.lean ====
section
/-! SUPPORT. One lemma per shared operation: everything it can do. -/

namespace Sys2Proof.Machine

theorem whenReady_of_ready {s : State} (t : State) (h : s.chActive = false) : whenReady s t = .next t := by
  simp [whenReady, h]

theorem whenReady_of_active {s : State} (t : State) (h : s.chActive = true) : whenReady s t = .next s := by
  simp [whenReady, h]

/-- A request answers a next state always: its effect, or the unchanged state while the host is held. -/
theorem whenReady_cases {s t u : State} (h : whenReady s t = .next u) :
    s.chActive = true ∧ u = s ∨ s.chActive = false ∧ u = t := by
  cases ha : s.chActive
  · rw [whenReady_of_ready t ha] at h
    injection h with h
    exact .inr ⟨rfl, h.symm⟩
  · rw [whenReady_of_active t ha] at h
    injection h with h
    exact .inl ⟨rfl, h.symm⟩

/-- A payload that fits is emitted and answered OK. -/
theorem emitBuilt_of_le {c : Byte} {p : List Byte} (s : State) (h : p.length ≤ 17) :
    emitBuilt c p s = respondOk (emit (sealFrame c (padPayload p)) s) := by
  simp only [emitBuilt, build_of_le h]

/-- A payload that does not fit raises FrameBuilder's error. -/
theorem emitBuilt_of_gt {c : Byte} {p : List Byte} (s : State) (h : 17 < p.length) :
    emitBuilt c p s = raise .invalidPayloadLength s := by
  simp only [emitBuilt, build_of_gt h]

/-- What a SEGADD's bit is, and when there is none. -/
theorem segBit_cases (i : Int) :
    (i < 0 ∨ 15 ≤ i) ∧ segBit i = none ∨
    (0 ≤ i ∧ i ≤ 7) ∧ segBit i = some (BitVec.ofNat 8 (1 <<< i.toNat), 0x00) ∨
    (8 ≤ i ∧ i ≤ 14) ∧ segBit i = some (0x00#8, BitVec.ofNat 8 (1 <<< (i.toNat - 8))) := by
  by_cases h : i < 0 ∨ 15 ≤ i
  · exact .inl ⟨h, if_pos h⟩
  · unfold segBit
    rw [if_neg h]
    by_cases h7 : i ≤ 7
    · exact .inr (.inl ⟨by omega, if_pos h7⟩)
    · exact .inr (.inr ⟨by omega, if_neg h7⟩)

theorem sliceLen_le (size len k : Nat) : sliceLen size len k ≤ size := Nat.min_le_left ..

@[simp] theorem sliceOffsets_length (size len k : Nat) : (sliceOffsets size len k).length = sliceLen size len k := by
  simp [sliceOffsets]

/-- `ceil_div` is the least count that covers. -/
theorem ceilDiv_le_iff {len size : Nat} (q : Nat) (h : 1 ≤ size) : ceilDiv len size ≤ q ↔ len ≤ q * size := by
  unfold ceilDiv
  rw [Nat.div_le_iff_le_mul_add_pred (by omega), Nat.mul_comm size q]
  omega

/-- The payload of an emission fits a frame. -/
theorem sequencerPayload_length {s : State} (h : s.chHlen.toNat ≤ 14) : (sequencerPayload s).length ≤ 17 := by
  have := sliceLen_le (sliceSize s.chHlen.toNat) s.chLen.toNat s.chSeq.toNat
  simp only [sequencerPayload, chunkFramePayload, sequencerOffsets, List.length_append, List.length_map,
    sliceOffsets_length, List.length_cons, List.length_nil, List.length_take]
  simp only [sliceSize] at *
  omega

/-- Everything the sequencer emission can do. -/
theorem sequencerEmit_of_ready {s : State} (h : SequencerReady s) :
    sequencerEmit s =
      .next (advanceSequencer (emit (sealFrame s.chCmd (padPayload (sequencerPayload s)))
        (logReads ((sequencerOffsets s).map (BitVec.ofNat 16)) s))) := by
  simp only [sequencerEmit, if_pos h, build_of_le (sequencerPayload_length h.2.1)]

theorem sequencerEmit_of_not_ready {s : State} (h : ¬ SequencerReady s) :
    sequencerEmit s = .fault .sequencerOutsideRules := by
  simp only [sequencerEmit, if_neg h]

theorem sequencerEmit_cases {s t : State} (h : sequencerEmit s = .next t) :
    SequencerReady s ∧
      t = advanceSequencer (emit (sealFrame s.chCmd (padPayload (sequencerPayload s)))
        (logReads ((sequencerOffsets s).map (BitVec.ofNat 16)) s)) := by
  by_cases hr : SequencerReady s
  · rw [sequencerEmit_of_ready hr] at h
    injection h with h
    exact ⟨hr, h.symm⟩
  · rw [sequencerEmit_of_not_ready hr] at h
    cases h

/-- What the advance of the sequencer leaves. -/
theorem advanceSequencer_eq (s : State) :
    advanceSequencer s =
      { s with chSeq := s.chSeq + 1,
               chActive := if s.chSeq.toNat + 1 = s.chTotal.toNat then false else s.chActive } := by
  unfold advanceSequencer
  split <;> rfl

/-- Everything a frame row can do: its producing step, which emits its frame. -/
theorem takeFrame_cases {f : Frame} {s t : State} (h : takeFrame f s = .next t) :
    producingStep s = .next t ∧ t.out = s.out ++ [f] := by
  unfold takeFrame at h
  split at h
  · split at h
    · injection h with h
      subst h
      exact ⟨by assumption, by assumption⟩
    · cases h
  · cases h
  · cases h

theorem takeFrame_of_producing {f : Frame} {s t : State} (h : producingStep s = .next t) (ho : t.out = s.out ++ [f]) :
    takeFrame f s = .next t := by
  simp only [takeFrame, h, ho, if_true]

end Sys2Proof.Machine
end

