-- ==== Sys2Proof/Laws/Chunker.lean ====
section
/-! SUPPORT. The list functions `seg_encode` and `chunk` as equations. -/

namespace Sys2Proof.Machine

theorem foldl_segJoin_none (xs : List Int) : xs.foldl segJoin none = none := by
  induction xs with
  | nil => rfl
  | cons a xs ih => simpa [segJoin] using ih

theorem foldl_segJoin (xs : List Int) (l h : Byte) :
    xs.foldl segJoin (some (l, h)) = (segEncode xs).map fun p => (l ^^^ p.1, h ^^^ p.2) := by
  induction xs generalizing l h with
  | nil => simp [segEncode]
  | cons a xs ih =>
    unfold segEncode
    simp only [List.foldl_cons, segJoin]
    cases segBit a with
    | none => simp [foldl_segJoin_none]
    | some p =>
      simp only
      rw [ih, ih]
      cases segEncode xs <;> simp [BitVec.xor_assoc]

/-- `seg_encode` joins its first element to the rest (41_segment_mask.md R124). -/
theorem segEncode_cons (a : Int) (xs : List Int) :
    segEncode (a :: xs) =
      match segBit a, segEncode xs with
      | some p, some q => some (p.1 ^^^ q.1, p.2 ^^^ q.2)
      | _, _ => none := by
  unfold segEncode
  simp only [List.foldl_cons, segJoin]
  cases segBit a with
  | none => simp [foldl_segJoin_none]
  | some p =>
    simp only
    rw [foldl_segJoin]
    unfold segEncode
    cases List.foldl segJoin (some (0x00, 0x00)) xs <;> simp

theorem mapM_eq_some_map {α β : Type} (f : α → Option β) (g : α → β) (l : List α) (h : ∀ x ∈ l, f x = some (g x)) :
    l.mapM f = some (l.map g) := by
  induction l with
  | nil => rfl
  | cons a l ih =>
    rw [List.mapM_cons, h a (by simp), ih fun x hx => h x (by simp [hx])]
    rfl

/-- Where `chunk` is defined (42_chunker.md R145). -/
theorem chunkFrames_defined {base : Nat} {c : Byte} {h p : List Byte} {frames : List Frame}
    (hc : chunkFrames base c h p = some frames) : h.length ≤ 14 ∧ ceilDiv p.length (15 - h.length) ≤ 255 := by
  unfold chunkFrames at hc
  simp only [sliceSize] at hc
  split at hc
  · assumption
  · cases hc

/-- `chunk` where it is defined: one frame built per slice (42_chunker.md R145). -/
theorem chunkFrames_eq (base : Nat) (c : Byte) (h p : List Byte) (hh : h.length ≤ 14)
    (hT : ceilDiv p.length (15 - h.length) ≤ 255) :
    chunkFrames base c h p = some ((List.range (ceilDiv p.length (15 - h.length))).map fun k =>
      sealFrame c (padPayload (chunkFramePayload base k (BitVec.ofNat 8 (ceilDiv p.length (15 - h.length))) h
        (slice p (k * (15 - h.length)) (min ((k + 1) * (15 - h.length)) p.length))))) := by
  unfold chunkFrames
  simp only [sliceSize]
  rw [if_pos ⟨hh, hT⟩]
  apply mapM_eq_some_map
  intro k _
  apply build_of_le
  simp only [chunkFramePayload, slice, List.length_append, List.length_cons, List.length_nil, List.length_take,
    List.length_drop]
  rw [Nat.add_mul]
  omega

end Sys2Proof.Machine
end

