-- ==== Sys2Proof/Laws/Decode.lean ====
section
/-! SUPPORT. What a row's mask and value say, byte by byte. -/

namespace Sys2Proof

open Sys2Proof.Machine

/-- A row matches where every byte has its fixed bits. -/
theorem rowMatches_iff (mask value : BitVec 160) (f : Frame) :
    rowMatches mask value f = true ↔
      ∀ i : Fin 20, f[i.val] &&& mask.extractLsb' (8 * (19 - i.val)) 8 = value.extractLsb' (8 * (19 - i.val)) 8 := by
  have hw : ∀ (w : BitVec 160) (i : Nat) (h : i < 20), (frameOfWord w)[i] = w.extractLsb' (8 * (19 - i)) 8 := by
    intro w i h
    unfold frameOfWord
    rw [lanesOf_getElem _ _ _ h]
  unfold rowMatches
  rw [beq_iff_eq]
  constructor
  · intro h i
    have hi := congrArg (fun l => l[i.val]?) h
    simpa [hw] using hi
  · intro h
    apply List.ext_getElem
    · simp
    · intro i h1 h2
      have hi : i < 20 := by simpa using h1
      have := h ⟨i, hi⟩
      simpa [hw _ i hi] using this

/-- Every frame built has the fixed bits of row `FRAME`. -/
theorem matchesFrame_sealFrame (c : Byte) (p : Vector Byte 17) : matchesFrame (sealFrame c p) = true := by
  unfold matchesFrame
  rw [rowMatches_iff]
  intro i
  fin_cases i <;> simp

theorem and_ff (a : Byte) : a &&& 255#8 = a := by
  revert a
  decide

end Sys2Proof
end

