-- ==== Sys2Proof/Laws/PerInstr.lean ====
section
/-! SUPPORT. Per instruction: a request row is encoded as a request a host may issue, a frame row as a well-formed
frame (30_encoding.md R79, R80, R82). -/

namespace Sys2Proof.Laws.Encodes

open Sys2Proof Sys2Proof.Machine

/-- What the encoding of an instruction is, whatever its operands. -/
def Statement (i : Instr) : Prop :=
  match encode i with
  | .request q => i.isRequest = true ∧ q.legal = true
  | .frame f => i.isRequest = false ∧ frameOk f = true

theorem build (cmd : Byte) (plen : BitVec 5) (pay : Vector Byte 17) : Statement (.build cmd plen pay) := ⟨rfl, rfl⟩

theorem segclr : Statement .segclr := ⟨rfl, rfl⟩

theorem segadd (idx : Byte) : Statement (.segadd idx) := ⟨rfl, rfl⟩

theorem segrd : Statement .segrd := ⟨rfl, rfl⟩

theorem chunk (cmd : Byte) (hlen : BitVec 4) (hdr : Vector Byte 14) (elen : BitVec 16) (maxc : Byte) :
    Statement (.chunk cmd hlen hdr elen maxc) := ⟨rfl, rfl⟩

theorem power (on : Bool) : Statement (.power on) := ⟨rfl, rfl⟩

theorem bright (pct : Byte) : Statement (.bright pct) := ⟨rfl, rfl⟩

theorem color (r g b : Byte) (segsel : Bool) : Statement (.color r g b segsel) := ⟨rfl, rfl⟩

theorem frame (command : Byte) (payload : Vector Byte 17) : Statement (.frame command payload) :=
  ⟨rfl, frameOk_sealFrame _ _⟩

theorem framePower (on : Bool) : Statement (.framePower on) := ⟨rfl, frameOk_sealFrame _ _⟩

theorem frameBright (level : Byte) : Statement (.frameBright level) := ⟨rfl, frameOk_sealFrame _ _⟩

theorem frameColorAll (r g b : Byte) : Statement (.frameColorAll r g b) := ⟨rfl, frameOk_sealFrame _ _⟩

theorem frameColorSeg (r g b segLow : Byte) (segHigh : BitVec 7) : Statement (.frameColorSeg r g b segLow segHigh) :=
  ⟨rfl, frameOk_sealFrame _ _⟩

theorem frameChunk (command seq total : Byte) (body : Vector Byte 15) : Statement (.frameChunk command seq total body) :=
  ⟨rfl, frameOk_sealFrame _ _⟩

end Sys2Proof.Laws.Encodes
end

