-- ==== Sys2Proof/Laws/Step.lean ====
section
/-! SUPPORT. What the fetch and the step can do, and how a run of steps unfolds. -/

namespace Sys2Proof.Machine

/-- A run of no steps. -/
theorem run_zero (s : State) : core.run 0 s = .next s := rfl

/-- A run whose first step answers a next state. -/
theorem run_succ {k : Nat} {s t : State} (h : step s = .next t) : core.run (k + 1) s = core.run k t := by
  have hs : core.step s = .next t := h
  simp only [Host.Core.run]
  rw [hs]

@[simp] theorem undisturbed_zero (l : List Input) : undisturbed 0 l = true := rfl

@[simp] theorem undisturbed_nil (n : Nat) : undisturbed n [] = true := by cases n <;> rfl

@[simp] theorem eventsAfter_zero (l : List Input) : eventsAfter 0 l = l := rfl

@[simp] theorem eventsAfter_nil (n : Nat) : eventsAfter n [] = [] := by cases n <;> rfl

/-- The steps that are not disturbed split into the first and the rest. -/
theorem undisturbed_succ (n : Nat) (l : List Input) :
    undisturbed (n + 1) l = true ↔ undisturbed 1 l = true ∧ undisturbed n (eventsAfter 1 l) = true := by
  rcases l with _ | ⟨_ | _ | _ | _ | _, l⟩ <;> cases n <;> simp [undisturbed, eventsAfter]

/-- The events after the first step, then those after the rest. -/
theorem eventsAfter_succ (n : Nat) (l : List Input) : eventsAfter (n + 1) l = eventsAfter n (eventsAfter 1 l) := by
  rcases l with _ | ⟨_ | _ | _ | _ | _, l⟩ <;> cases n <;> rfl

/-- While a sequence is active an undisturbed step is the emission. -/
theorem step_of_active {s : State} (ha : s.chActive = true) (h : undisturbed 1 s.inputs = true) :
    step s = sequencerEmit (withInputs (eventsAfter 1 s.inputs) s) := by
  have hself : ∀ l, s.inputs = l → withInputs l s = s := by
    rintro l rfl
    rfl
  unfold step fetch
  rcases hi : s.inputs with _ | ⟨r | _ | _ | _ | _, l⟩ <;> rw [hi] at h <;> simp only
  · rw [eventsAfter_nil, hself _ hi, autonomous, if_pos ha]
  · rw [eventsAfter, hself _ hi, if_pos ha]
  · exact if_pos ha
  all_goals exact absurd h (by simp [undisturbed])

/-- While a sequence is active a request that comes next is held and the step is the emission. -/
theorem step_of_held {s : State} {r : Request} {rest : List Input} (ha : s.chActive = true)
    (h : s.inputs = .request r :: rest) : step s = sequencerEmit s := by
  simp [step, fetch, h, ha]

/-- A step at the end of a run: an event that is no request is used up, no frame, response or read is added. -/
theorem step_of_final {s : State} (h : Final s) :
    ∃ t, step s = .next t ∧ Final t ∧ t.out = s.out ∧ t.rsps = s.rsps ∧ t.epReads = s.epReads := by
  obtain ⟨hr, ha⟩ := h
  unfold step fetch
  rcases hi : s.inputs with _ | ⟨_ | _ | _ | _ | _, l⟩ <;> rw [hi] at hr
  · exact ⟨s, by simp [autonomous, ha], ⟨by simp [hi], ha⟩, rfl, rfl, rfl⟩
  · rename_i r
    exact absurd (by simp) (hr r)
  · exact ⟨withInputs l s, by simp [autonomous, ha], ⟨by simpa using hr, by simpa using ha⟩, rfl, rfl, rfl⟩
  · exact ⟨withInputs l s, rfl, ⟨by simpa using hr, by simpa using ha⟩, rfl, rfl, rfl⟩
  · exact ⟨_, rfl, ⟨by simpa [hostWrite] using hr, by simpa [hostWrite] using ha⟩, rfl, rfl, rfl⟩
  · exact ⟨_, rfl, ⟨by simpa using hr, by simp⟩, rfl, rfl, rfl⟩

/-- The emission is defined wherever rule R30 (b) holds. -/
theorem sequencerReady_of_inv {s : State} (ha : s.chActive = true) (h : SequencerInv s) : SequencerReady s := by
  have h14 := h.hlen_le
  have hlt := h.seq_lt
  refine ⟨ha, h14, hlt, ?_⟩
  rw [h.total_eq] at hlt
  by_contra hc
  have := (ceilDiv_le_iff (len := s.chLen.toNat) s.chSeq.toNat (by omega : 1 ≤ 15 - s.chHlen.toNat)).2
    (by simp only [sliceSize] at hc; omega)
  omega

end Sys2Proof.Machine
end

