-- ==== Sys2Proof/Tests/Slice0.lean ====
section
/-! SUPPORT. Tests of single steps against the vectors of 95_test_vectors.md and the encodings of 30_encoding.md, and
for each statement with hypotheses a witness that meets them. -/

set_option Elab.async false

namespace Sys2Proof.Tests

open Sys2Proof Sys2Proof.Machine

/-! ### Helpers -/

/-- The state answered, if any. -/
def nextOf (o : Host.Outcome State Fault Refusal) : Option State :=
  match o with
  | .next t => some t
  | .fault _ => none
  | .refused _ => none

/-- The frames recorded, as 160-bit words. -/
def wordsOut (o : Host.Outcome State Fault Refusal) : Option (List (BitVec 160)) :=
  (nextOf o).map fun t => t.out.map frameWord

/-- The responses recorded. -/
def answers (o : Host.Outcome State Fault Refusal) : Option (List Response) := (nextOf o).map fun t => t.rsps

/-- `SEG_LOW`, `SEG_HIGH`, `SEG_ERR`. -/
def segments3 (o : Host.Outcome State Fault Refusal) : Option (Byte × Byte × Bool) :=
  (nextOf o).map fun t => (t.segLow, t.segHigh, t.segErr)

/-- Response OK without results. -/
def ok : Response := ⟨.ok, 0x00, 0x00, 0x00⟩

/-- A payload laid out at ascending offsets. -/
def placed (s : List Byte) : List Host.Cell := (List.range s.length).zip s

/-- `EP` of vector K2: C0 to DE. -/
def epK2 : List Host.Cell := placed ((List.range 31).map fun i => BitVec.ofNat 8 (0xC0 + i))

/-- The sequence of vector K2 with `k` frames out. -/
def sequenceK2 (k : Byte) : State :=
  { State.reset with
    chActive := true, chCmd := 0xA3, chHlen := 2, chHdr := lanesOfList 14 [0x02, 0x04], chLen := 31, chTotal := 3,
    chSeq := k, ep := epK2 }

/-- A state with a mask and a flag set, of vector Z1. -/
def maskZ1 : State := { State.reset with segLow := 0x81, segHigh := 0x41, segErr := true }

/-- The reset state with one request offered. -/
def offered (q : Request) : State := { State.reset with inputs := [.request q] }

/-- Frame S5: power on. -/
def frameS5 : Frame := frameOfWord 0x3301010000000000000000000000000000000033

/-- Frame B4: an unlisted command byte. -/
def frameB4 : Frame := frameOfWord 0x337EDEADBEEF000000000000000000000000006F

/-! ### Well-formedness: the ill-formed are refused -/

theorem test_wf_reserved_selector : ({ Request.low with op := 0xB } : Request).legal = false := by decide

theorem test_wf_chunk_total_zero : (Instr.frameChunk 0xA3 0 0 (Vector.replicate 15 0)).wellFormed = false := by decide

theorem test_wf_chunk_seq_above_total : (Instr.frameChunk 0xA3 4 3 (Vector.replicate 15 0)).wellFormed = false := by
  decide

theorem test_wf_chunk_in_range : (Instr.frameChunk 0xA3 3 3 (Vector.replicate 15 0)).wellFormed = true := by decide

/-! ### Decoding: one word per constructor, from R71, R72 and the frames of 95_test_vectors.md -/

theorem test_decode_build :
    (decodeRequest
        { Request.low with
          op := 0b0001, cmd := 0x7E, plen := 4, pay := 0xDEADBEEF000000000000000000000000AA }).toOption =
      some (.build 0x7E 4 (lanesOfList 17 [0xDE, 0xAD, 0xBE, 0xEF, 0, 0, 0, 0, 0, 0, 0, 0, 0, 0, 0, 0, 0xAA])) := by
  decide +kernel

theorem test_decode_segclr : (decodeRequest { Request.low with op := 0b0010 }).toOption = some .segclr := by decide

theorem test_decode_segadd :
    (decodeRequest { Request.low with op := 0b0011, idx := 0b00001110 }).toOption = some (.segadd 14) := by decide

theorem test_decode_segrd : (decodeRequest { Request.low with op := 0b0100 }).toOption = some .segrd := by decide

theorem test_decode_chunk :
    (decodeRequest
        { Request.low with
          op := 0b0101, cmd := 0x42, hlen := 1, hdr := 0x9900000000000000000000000001, elen := 3, maxc := 0xFF }).toOption =
      some (.chunk 0x42 1 (lanesOfList 14 [0x99, 0, 0, 0, 0, 0, 0, 0, 0, 0, 0, 0, 0, 0x01]) 3 0xFF) := by
  decide +kernel

theorem test_decode_power :
    (decodeRequest { Request.low with op := 0b1000, on := 1 }).toOption = some (.power true) := by decide

theorem test_decode_bright :
    (decodeRequest { Request.low with op := 0b1001, pct := 0b00110010 }).toOption = some (.bright 50) := by decide

theorem test_decode_color :
    (decodeRequest { Request.low with op := 0b1010, r := 0x12, g := 0x34, b := 0x56, segsel := 1 }).toOption =
      some (.color 0x12 0x34 0x56 true) := by decide

theorem test_decode_reserved :
    ([0x0, 0x6, 0x7, 0xB, 0xC, 0xD, 0xE, 0xF].map fun o =>
      (decodeRequest { Request.low with op := o }).toOption) = List.replicate 8 none := by decide

theorem test_decode_frame :
    decodeTableWord 160 0x337EDEADBEEF000000000000000000000000006F =
      some (.frame 0x7E (lanesOfList 17 [0xDE, 0xAD, 0xBE, 0xEF])) := by decide +kernel

theorem test_decode_framePower :
    decodeTableWord 160 0x3301010000000000000000000000000000000033 = some (.framePower true) := by decide +kernel

theorem test_decode_frameBright :
    decodeTableWord 160 0x33048000000000000000000000000000000000B7 = some (.frameBright 0x80) := by decide +kernel

theorem test_decode_frameColorAll :
    decodeTableWord 160 0x330502FF000000FFAE54000000000000000000CE = some (.frameColorAll 0xFF 0 0) := by
  decide +kernel

theorem test_decode_frameColorSeg :
    decodeTableWord 160 0x33050B00FF000101AE5400000000000000000038 = some (.frameColorSeg 0 0xFF 0 0x01 0x01) := by
  decide +kernel

/-- R82: the power-on frame matches FRAME_POWER, FRAME and FRAME_CHUNK; a frame of BUILD 0xA3 with total 0 is read as
FRAME, and still matches FRAME_CHUNK. -/
theorem test_frame_rows_overlap :
    frameReadings frameS5 =
      [.framePower true, .frame 0x01 (lanesOfList 17 [0x01]), .frameChunk 0x01 1 0 (Vector.replicate 15 0)] ∧
    frameReadings (frameOfWord 0x33A3000000000000000000000000000000000090) =
      [.frame 0xA3 (Vector.replicate 17 0), .frameChunk 0xA3 0 0 (Vector.replicate 15 0)] := by decide +kernel

theorem test_decode_frameChunk :
    decodeTableWord 160 0x33A302030204DADBDCDDDE000000000000000049 =
      some (.frameChunk 0xA3 2 3 (lanesOfList 15 [0x02, 0x04, 0xDA, 0xDB, 0xDC, 0xDD, 0xDE])) := by decide +kernel

/-! ### Single steps: the vectors of 95_test_vectors.md -/

/-- Vectors X5, X6: levels of the tree (R101). -/
theorem test_checksum_tree :
    xorTree ((List.range 19).map fun i => BitVec.ofNat 8 (i + 1)) = 0x00 ∧
      xorTree ((List.replicate 9 [0xA5, 0x5A]).flatten ++ [0x3C]) = 0xC3 := by decide +kernel

/-- Vector S11. -/
theorem test_hex : String.ofList (frameHex frameS5) = "3301010000000000000000000000000000000033" := by decide +kernel

/-- Vector B10: lanes at and above `plen` are masked. -/
theorem test_build_masks_lanes :
    wordsOut (exec (.build 0x01 1 (lanesOfList 17 (0x01 :: List.replicate 16 0x77))) State.reset) =
      some [0x3301010000000000000000000000000000000033] := by decide +kernel

/-- Vectors S3, B6: 18 is too long, nothing is emitted. -/
theorem test_build_too_long :
    (nextOf (exec (.build 0x00 18 (Vector.replicate 17 0x55)) State.reset)).map (fun t => (t.out, t.rsps)) =
      some ([], [⟨.invalidPayloadLength, 0, 0, 0⟩]) := by decide +kernel

/-- Program 2, step 13. -/
theorem test_segclr : segments3 (exec .segclr maskZ1) = some (0, 0, false) := by decide +kernel

/-- Program 2, steps 3 and 6: bit 0 of `high`, and a toggle off. -/
theorem test_segadd_toggles :
    segments3 (exec (.segadd 8) { State.reset with segLow := 0x01 }) = some (0x01, 0x01, false) ∧
      segments3 (exec (.segadd 0) { State.reset with segLow := 0x01, segHigh := 0x01 }) = some (0x00, 0x01, false) := by
  decide +kernel

/-- Vectors M11, M12: 15 and -1 set the flag alone. -/
theorem test_segadd_invalid :
    segments3 (exec (.segadd 15) State.reset) = some (0, 0, true) ∧
      answers (exec (.segadd 0xFF) State.reset) = some [⟨.invalidSegmentIndex, 0, 0, 0⟩] := by decide +kernel

/-- Program 2, steps 4 and 10. -/
theorem test_segrd :
    answers (exec .segrd { State.reset with segLow := 0x01, segHigh := 0x01 }) = some [⟨.ok, 0x01, 0x01, 0⟩] ∧
      answers (exec .segrd maskZ1) = some [⟨.invalidSegmentIndex, 0, 0, 0⟩] := by decide +kernel

/-- Vectors K9, K13: `T` = 256 and 4369 are too many; 255 is not. -/
theorem test_chunk_limit :
    answers (exec (.chunk 0xA3 0 (Vector.replicate 14 0) 3826 255) State.reset) =
        some [⟨.payloadTooLarge, 0, 0, 0⟩] ∧
      answers (exec (.chunk 0xA3 0 (Vector.replicate 14 0) 65535 255) State.reset) =
        some [⟨.payloadTooLarge, 0, 0, 0⟩] ∧
      answers (exec (.chunk 0xA3 0 (Vector.replicate 14 0) 3825 255) State.reset) = some [⟨.ok, 0, 0, 255⟩] := by
  decide +kernel

/-- Vectors K10, K11: the empty payload wins over the header check (R193). -/
theorem test_chunk_no_room :
    answers (exec (.chunk 0xA3 15 (Vector.replicate 14 0) 1 255) State.reset) =
        some [⟨.invalidPayloadLength, 0, 0, 0⟩] ∧
      answers (exec (.chunk 0xA3 15 (Vector.replicate 14 0) 0 255) State.reset) = some [ok] := by decide +kernel

/-- Vectors F1, F2. -/
theorem test_power :
    wordsOut (exec (.power true) State.reset) = some [0x3301010000000000000000000000000000000033] ∧
      wordsOut (exec (.power false) State.reset) = some [0x3301000000000000000000000000000000000032] := by
  decide +kernel

/-- Vector F7: the two rounding modes differ at 30. -/
theorem test_bright_rounding :
    wordsOut (exec (.bright 30) State.reset) = some [0x33044D000000000000000000000000000000007A] ∧
      wordsOut (exec (.bright 30) { State.reset with cfg := ⟨.zero, .halfEven⟩ }) =
        some [0x33044C000000000000000000000000000000007B] := by decide +kernel

/-- Vectors F10, F11. -/
theorem test_bright_range :
    answers (exec (.bright 101) State.reset) = some [⟨.invalidValueRange, 0, 0, 0⟩] ∧
      answers (exec (.bright 0xFF) State.reset) = some [⟨.invalidValueRange, 0, 0, 0⟩] := by decide +kernel

/-- Vectors C1, C6: the all-segments mode does not read the flag. -/
theorem test_color_all :
    wordsOut (exec (.color 255 0 0 false) maskZ1) = some [0x330502FF000000FFAE54000000000000000000CE] := by decide +kernel

/-- Vector C2: the mask of segments 0 and 8; vector C6: the propagated failure. -/
theorem test_color_seg :
    wordsOut (exec (.color 0 255 0 true) { State.reset with segLow := 0x01, segHigh := 0x01 }) =
        some [0x33050B00FF000101AE5400000000000000000038] ∧
      answers (exec (.color 1 2 3 true) maskZ1) = some [⟨.invalidSegmentIndex, 0, 0, 0⟩] := by decide +kernel

/-- Vector K2, the first emission: it reads offsets 0 to 12. -/
theorem test_emission_first :
    wordsOut (step (sequenceK2 0)) = some [0x33A300030204C0C1C2C3C4C5C6C7C8C9CACBCC59] ∧
      (nextOf (step (sequenceK2 0))).map (fun t => (t.chSeq, t.chActive, t.epReads)) =
        some (1, true, (List.range 13).map (BitVec.ofNat 16)) := by decide +kernel

/-- Vector K2, the last emission: padded, and the sequence ends. -/
theorem test_emission_last :
    wordsOut (step (sequenceK2 2)) = some [0x33A302030204DADBDCDDDE000000000000000049] ∧
      (nextOf (step (sequenceK2 2))).map (fun t => (t.chSeq, t.chActive)) = some (3, false) := by decide +kernel

/-- Vector K3: `SEQ_BASE` = 1. -/
theorem test_emission_base_one :
    wordsOut (step { sequenceK2 0 with cfg := ⟨.one, .halfUp⟩ }) =
      some [0x33A301030204C0C1C2C3C4C5C6C7C8C9CACBCC58] := by decide +kernel

/-- Vector Z2: the frame already out stays. -/
theorem test_reset_in_mid_sequence :
    (nextOf (step { sequenceK2 1 with out := [frameS5], inputs := [.reset] })).map
      (fun t => (t.chActive, t.chTotal, t.chSeq, t.out)) = some (false, 0, 0, [frameS5]) := by decide +kernel

/-- The first step after a request word is placed runs it (log entry 13). -/
theorem test_first_step_request :
    wordsOut (step (State.reset.withFetchWord 8 0x8)) = some [0x3301000000000000000000000000000000000032] := by
  decide +kernel

/-- The first step after a frame word is placed puts that frame out (log entry 13). -/
theorem test_first_step_frame :
    wordsOut (step (State.reset.withFetchWord 160 0x33050B0102030000AE54000000000000000000C7)) =
      some [0x33050B0102030000AE54000000000000000000C7] := by decide +kernel

/-- Row `FRAME`: the frame of a BUILD with all 17 payload bytes, vector B5. -/
theorem test_frame_row :
    nextOf (exec (.frame 0xA3 (Vector.ofFn fun i => BitVec.ofNat 8 (i.val + 1)))
        (State.reset.withFetchWord 160 0x33A30102030405060708090A0B0C0D0E0F101191)) =
      nextOf (step (State.reset.withFetchWord 160 0x33A30102030405060708090A0B0C0D0E0F101191)) ∧
    wordsOut (step (State.reset.withFetchWord 160 0x33A30102030405060708090A0B0C0D0E0F101191)) =
      some [0x33A30102030405060708090A0B0C0D0E0F101191] := by decide +kernel

/-- Row `FRAME_POWER`: the sink takes the frame of the POWER offered, and no other. -/
theorem test_frame_power_row :
    wordsOut (exec (.framePower false) (State.reset.withFetchWord 8 0x8)) =
        some [0x3301000000000000000000000000000000000032] ∧
      nextOf (exec (.framePower true) (State.reset.withFetchWord 8 0x8)) = none := by decide +kernel

/-- Row `FRAME_BRIGHT`, vector F4. -/
theorem test_frame_bright_row :
    wordsOut (exec (.frameBright 0x80) (offered { Request.low with op := 0x9, pct := 50 })) =
      some [0x33048000000000000000000000000000000000B7] := by decide +kernel

/-- Row `FRAME_COLOR_ALL`, vector C1. -/
theorem test_frame_color_all_row :
    wordsOut (exec (.frameColorAll 255 0 0) (offered { Request.low with op := 0xA, r := 255 })) =
      some [0x330502FF000000FFAE54000000000000000000CE] := by decide +kernel

/-- Row `FRAME_COLOR_SEG`, vector C3. -/
theorem test_frame_color_seg_row :
    wordsOut (exec (.frameColorSeg 1 2 3 0 0)
        (offered { Request.low with op := 0xA, r := 1, g := 2, b := 3, segsel := 1 })) =
      some [0x33050B0102030000AE54000000000000000000C7] := by decide +kernel

/-- Row `FRAME_CHUNK`, vector K2: the frame the sequencer owes next. -/
theorem test_frame_chunk_row :
    wordsOut (exec (.frameChunk 0xA3 2 3 (lanesOfList 15 [0x02, 0x04, 0xDA, 0xDB, 0xDC, 0xDD, 0xDE]))
        (sequenceK2 2)) = some [0x33A302030204DADBDCDDDE000000000000000049] := by decide +kernel

/-- The lines of program 1 and of rule R81. -/
theorem test_line_text :
    lineText (.build 0x7E 4 (lanesOfList 17 [0xDE, 0xAD, 0xBE, 0xEF])) = some "BUILD 0x7E, [DE AD BE EF]" ∧
      lineText (.bright 0xFF) = some "BRIGHT -1" := by decide +kernel

/-! ### Witnesses: for each statement with hypotheses, values that meet all of them together -/

/-- The sequence of K2 meets rule R30 (b), before every one of its frames. -/
theorem test_sequenceK2_inv (k : Byte) (h : k = 0 ∨ k = 2) : SequencerInv (sequenceK2 k) := by
  rcases h with rfl | rfl <;>
    exact ⟨by decide, by decide, by decide, by decide, by decide, by decide⟩

theorem test_witness_RequestReadBack : ∀ i ∈ [Instr.build 0x7E 31 (Vector.replicate 17 0xFF), .segclr, .segadd 0x80,
    .segrd, .chunk 0xA3 15 (Vector.replicate 14 0xFF) 65535 255, .power true, .bright 0xFF, .color 1 2 3 true],
    i.isRequest = true := by decide

theorem test_witness_SelectorReadsItsOwnSignals :
    ({ Request.low with op := 0x1 } : Request).op = 0x1 ∧ ({ Request.low with op := 0x2 } : Request).op = 0x2 ∧
    ({ Request.low with op := 0x3 } : Request).op = 0x3 ∧ ({ Request.low with op := 0x4 } : Request).op = 0x4 ∧
    ({ Request.low with op := 0x5 } : Request).op = 0x5 ∧ ({ Request.low with op := 0x8 } : Request).op = 0x8 ∧
    ({ Request.low with op := 0x9 } : Request).op = 0x9 ∧ ({ Request.low with op := 0xA } : Request).op = 0xA ∧
    ({ Request.low with op := 0xF } : Request).op ∈ [(0x0 : BitVec 4), 0x6, 0x7, 0xB, 0xC, 0xD, 0xE, 0xF] := by decide

theorem test_witness_FrameIsReadExactlyWhenWellFormed :
    (frameS5[0] = 0x33 ∧ xorAll frameS5.toList = 0) ∧ (Vector.replicate 20 (0x00 : Byte))[0] ≠ 0x33 ∧
    ((Vector.replicate 20 (0x33 : Byte)).set 1 0x00)[0] = 0x33 ∧
    xorAll ((Vector.replicate 20 (0x33 : Byte)).set 1 0x00).toList ≠ 0 := by decide +kernel

theorem test_witness_FrameReadThenWritten : (decodeFrame frameS5).toOption = some (.framePower true) := by
  decide +kernel

theorem test_witness_FrameRowMatchesItsOwnFrame :
    frameOk frameS5 = true ∧ Instr.framePower true ∈ frameReadings frameS5 ∧
    (∃ f, encode (.frameChunk 0xA3 1 1 (Vector.replicate 15 0)) = .frame f) ∧
    ∃ f, encode (.frame 0x7E (Vector.replicate 17 0)) = .frame f := by
  exact ⟨by decide +kernel, by decide +kernel, ⟨_, rfl⟩, ⟨_, rfl⟩⟩

theorem test_witness_Checksum : (List.range 19).reverse.Perm (List.range 19) ∧
    (List.replicate 18 (0x00 : Byte) ++ [0x01]).length = 19 ∧ 7 < 8 := ⟨List.reverse_perm _, by decide⟩

theorem test_witness_BuildLaysOutTheFrame :
    (List.replicate 17 (0x55 : Byte)).length ≤ 17 ∧ 17 < (List.replicate 18 (0x55 : Byte)).length := by decide

theorem test_witness_PaddingChangesNothing : ([0x80] : List Byte).length + 16 ≤ 17 := by decide

theorem test_witness_FrameDeterminesCommandAndPayload :
    ([0x80] : List Byte).length ≤ 17 ∧ ([0x80, 0x00] : List Byte).length ≤ 17 ∧ (0x01 : Byte) ≠ 0x04 ∧
    frameOk frameS5 = true ∧ ∀ k : Fin 19, frameS5[k.val] = frameS5[k.val] := by decide +kernel

theorem test_witness_OneChangedByte :
    (List.replicate 19 (0x00 : Byte)).length = 19 ∧ 1 ≤ 18 ∧ 18 ≤ 18 ∧ (0x80 : Byte) ≠ 0 ∧
    (List.replicate 19 (0x00 : Byte))[18]? = some 0x00 ∧
    xorAll frameS5.toList = 0 ∧ xorAll (frameOfWord (0x3301000000000000000000000000000000000032 : BitVec 160)).toList = 0 ∧
    frameS5[2] ≠ (frameOfWord (0x3301000000000000000000000000000000000032 : BitVec 160))[2] ∧
    ∀ k : Fin 19, k ≠ 2 → frameS5[k.val] = (frameOfWord (0x3301000000000000000000000000000000000032 : BitVec 160))[k.val] := by
  decide +kernel

theorem test_witness_Build :
    State.reset.chActive = false ∧ (17 : BitVec 5).toNat ≤ 17 ∧ 17 < (18 : BitVec 5).toNat := by decide

theorem test_witness_BuildIgnoresLanes : (1 : BitVec 5).toNat ≤ 17 → ∀ i : Fin 17, i.val < (1 : BitVec 5).toNat →
    (lanesOfList 17 (0x01 :: List.replicate 16 0x77))[i] = (lanesOfList 17 [0x01])[i] := by decide +kernel

theorem test_witness_SegclrAndSegrd :
    State.reset.chActive = false ∧ State.reset.segErr = false ∧ maskZ1.chActive = false ∧ maskZ1.segErr = true := by
  decide

theorem test_witness_Segadd :
    State.reset.chActive = false ∧ (0 : Byte).toInt = (0 : Nat) ∧ (7 : Byte).toInt = (7 : Nat) ∧
    (8 : Byte).toInt = (8 : Nat) ∧ (14 : Byte).toInt = (14 : Nat) ∧
    ((0xFF : Byte).toInt < 0 ∨ 15 ≤ (0xFF : Byte).toInt) ∧ ((15 : Byte).toInt < 0 ∨ 15 ≤ (15 : Byte).toInt) := by decide

theorem test_witness_SegmentRequests :
    State.reset.chActive = false ∧ segEncode (([14, 0, 7, 8] : List Byte).map BitVec.toInt) = some (0x81, 0x41) ∧
    segEncode (([0, 15, 1] : List Byte).map BitVec.toInt) = none := by decide +kernel

theorem test_witness_MaskBitCounts : (∀ i ∈ [(0 : Int), 14, 3, 3, 3], 0 ≤ i ∧ i ≤ 14) ∧ 7 ≤ 7 ∧ 8 ≤ 8 ∧ 14 ≤ 14 := by
  decide

theorem test_witness_SegmentOrder : ([3, 0, 14] : List Int).Perm [14, 3, 0] := by decide

theorem test_witness_AllSegments : ((List.range 15).map Int.ofNat).reverse.Perm ((List.range 15).map Int.ofNat) :=
  List.reverse_perm _

theorem test_witness_FrameCount : 1 ≤ 15 ∧ 31 ≤ 3 * 13 ∧ 2 < ceilDiv 31 13 := by decide

theorem test_witness_ChunkChecks :
    State.reset.chActive = false ∧ (0 : BitVec 16).toNat = 0 ∧ (1 : BitVec 16).toNat ≠ 0 ∧ 14 < (15 : BitVec 4).toNat ∧
    (14 : BitVec 4).toNat ≤ 14 ∧
    (255 : Byte).toNat < ceilDiv (256 : BitVec 16).toNat (15 - (14 : BitVec 4).toNat) ∧
    ceilDiv (255 : BitVec 16).toNat (15 - (14 : BitVec 4).toNat) ≤ (255 : Byte).toNat := by decide

theorem test_witness_Emission : (sequenceK2 2).chActive = true ∧ SequencerInv (sequenceK2 2) ∧
    undisturbed 1 (sequenceK2 2).inputs = true ∧ undisturbed 1 [.idle, .reset] = true ∧
    undisturbed 1 [.request Request.low, .reset] = true :=
  ⟨rfl, test_sequenceK2_inv 2 (.inr rfl), rfl, rfl, rfl⟩

/-- Vector K2: the emission with nothing offered uses that event up; with a request offered it stays. -/
theorem test_emission_events :
    (nextOf (step { sequenceK2 2 with inputs := [.idle, .reset] })).map (fun t => (t.out.length, t.inputs)) =
      some (1, [.reset]) ∧
    (nextOf (step { sequenceK2 2 with inputs := [.request Request.low, .reset] })).map
      (fun t => (t.out.length, t.inputs)) = some (1, [.request Request.low, .reset]) := by decide +kernel

theorem test_witness_AcceptedChunk : State.reset.chActive = false ∧
    undisturbed (ceilDiv (3 : BitVec 16).toNat (15 - (14 : BitVec 4).toNat)) State.reset.inputs = true ∧
    undisturbed (ceilDiv (3 : BitVec 16).toNat (15 - (14 : BitVec 4).toNat))
      [.idle, .idle, .request Request.low, .reset] = true ∧
    (14 : BitVec 4).toNat ≤ 14 ∧ ceilDiv (3 : BitVec 16).toNat (15 - (14 : BitVec 4).toNat) ≤ (3 : Byte).toNat :=
  ⟨rfl, by decide, by decide, by decide, by decide⟩

theorem test_witness_ChunkFrames :
    (chunkFrames (seqBaseNat .one) 0x42 [0x99] [0x01, 0x02, 0x03]).map List.length = some 1 ∧
    (chunkFrames (seqBaseNat .zero) 0x42 (List.replicate 14 0x99) [0x01, 0x02, 0x03]).map List.length = some 3 := by
  decide +kernel

theorem test_witness_EmptyPayload : (List.replicate 14 (0x00 : Byte)).length ≤ 14 ∧ State.reset.chActive = false := by
  decide

theorem test_witness_RequestIsHeld : Instr.isRequest .segclr = true ∧
    ({ sequenceK2 0 with inputs := [.request Request.low] } : State).chActive = true ∧
    ∃ t, step { sequenceK2 0 with inputs := [.request Request.low] } = .next t := by
  exact ⟨rfl, rfl, ⟨_, rfl⟩⟩

theorem test_witness_SequenceEnds : (sequenceK2 0).chActive = true ∧ SequencerInv (sequenceK2 0) ∧
    undisturbed ((sequenceK2 0).chTotal.toNat - (sequenceK2 0).chSeq.toNat) (sequenceK2 0).inputs = true ∧ 2 < (sequenceK2 0).chTotal.toNat - (sequenceK2 0).chSeq.toNat :=
  ⟨rfl, test_sequenceK2_inv 0 (.inl rfl), by decide, by decide⟩

/-- Two CHUNKs that differ in an unused lane and in the limit, each run to its end. -/
theorem test_witness_ChunkFramesDependOnly :
    State.reset.chActive = false ∧ maskZ1.chActive = false ∧ undisturbed (ceilDiv 1 (15 - 1)) State.reset.inputs = true ∧
    undisturbed (ceilDiv 1 (15 - 1)) maskZ1.inputs = true ∧
    State.reset.cfg.seqBase = maskZ1.cfg.seqBase ∧ payloadOf State.reset 1 = payloadOf maskZ1 1 ∧
    (lanesOfList 14 [0x99, 0x01]).toList.take 1 = (lanesOfList 14 [0x99, 0x02]).toList.take 1 ∧
    ceilDiv 1 (15 - 1) ≤ 1 ∧ ceilDiv 1 (15 - 1) ≤ 2 ∧
    ∃ t t' u u', exec (.chunk 0x42 1 (lanesOfList 14 [0x99, 0x01]) 1 1) State.reset = .next t ∧
      exec (.chunk 0x42 1 (lanesOfList 14 [0x99, 0x02]) 1 2) maskZ1 = .next t' ∧
      core.run (ceilDiv 1 (15 - 1)) t = .next u ∧ core.run (ceilDiv 1 (15 - 1)) t' = .next u' :=
  ⟨rfl, rfl, by decide, by decide, rfl, by decide,
    by decide, by decide, by decide, ⟨_, _, _, _, rfl, rfl, rfl, rfl⟩⟩

theorem test_witness_Bright :
    State.reset.chActive = false ∧ (0 : Byte).toInt = (0 : Nat) ∧ (100 : Byte).toInt = (100 : Nat) ∧ 100 ≤ 100 ∧
    ((101 : Byte).toInt < 0 ∨ 100 < (101 : Byte).toInt) ∧ ((0x80 : Byte).toInt < 0 ∨ 100 < (0x80 : Byte).toInt) := by
  decide

theorem test_witness_Level : 0 ≤ 100 ∧ 100 ≤ 100 ∧ 255 * 30 % 100 = 50 ∧ 29 ≤ 30 := by decide

theorem test_witness_Color :
    State.reset.chActive = false ∧ State.reset.segErr = false ∧ maskZ1.chActive = false ∧ maskZ1.segErr = true := by
  decide

theorem test_witness_EveryRequest : Instr.isRequest (.segadd 15) = true ∧ State.reset.chActive = false ∧
    Instr.isRequest (.bright 101) = true ∧ Instr.isRequest .segrd = true ∧ maskZ1.chActive = false := by decide

theorem test_witness_Stateless : State.reset.chActive = false ∧ maskZ1.chActive = false ∧ State.reset.cfg = maskZ1.cfg ∧
    ∃ p, Instr.bright 50 = .bright p := ⟨rfl, rfl, rfl, ⟨_, rfl⟩⟩

theorem test_witness_SegmentRegisters : (∃ t, exec .segclr maskZ1 = .next t ∧ t.segErr = false) ∧ maskZ1.segErr = true ∧
    (∃ t, exec (.segadd 15) State.reset = .next t ∧ t.segErr = true) ∧
    ∃ t, exec (.framePower false) (State.reset.withFetchWord 8 0x8) = .next t := by
  exact ⟨⟨_, rfl, rfl⟩, rfl, ⟨_, rfl, rfl⟩, ⟨_, rfl⟩⟩

theorem test_witness_SequencerRegisters : Instr.isRequest (.power true) = true ∧
    (∃ t, exec (.power true) State.reset = .next t) ∧ ∀ c n h e m, Instr.power true ≠ .chunk c n h e m := by
  exact ⟨rfl, ⟨_, rfl⟩, by simp⟩

theorem test_witness_StepRunsTheRequestTaken :
    (offered { Request.low with op := 0x2 }).chActive = false ∧
    (offered { Request.low with op := 0x2 }).inputs = .request { Request.low with op := 0x2 } :: [] ∧
    decodeRequest { Request.low with op := 0x2 } = .ok .segclr := by
  exact ⟨rfl, rfl, rfl⟩

theorem test_witness_ReservedSelector :
    (offered Request.low).chActive = false ∧ (offered Request.low).inputs = .request Request.low :: [] ∧
    Request.low.op ∈ [(0x0 : BitVec 4), 0x6, 0x7, 0xB, 0xC, 0xD, 0xE, 0xF] := by decide

theorem test_witness_RequestFrameRows :
    (offered Request.low).chActive = false ∧ (offered Request.low).inputs = .request Request.low :: [] ∧
    decodeRequest { Request.low with op := 0x1, plen := 17 } = .ok (.build 0 17 (lanesOf 17 0)) ∧
    decodeRequest { Request.low with op := 0x8 } = .ok (.power false) ∧
    decodeRequest { Request.low with op := 0x9, pct := 100 } = .ok (.bright 100) ∧
    (100 : Byte).toInt = (100 : Nat) ∧ (255 : Byte).toNat = level State.reset.cfg.roundMode 100 ∧
    decodeRequest { Request.low with op := 0xA } = .ok (.color 0 0 0 false) ∧
    decodeRequest { Request.low with op := 0xA, segsel := 1 } = .ok (.color 0 0 0 true) ∧
    State.reset.segErr = false ∧ State.reset.segLow = 0 ∧ State.reset.segHigh = (0 : BitVec 7).setWidth 8 := by
  exact ⟨rfl, rfl, rfl, rfl, rfl, by decide, by decide, rfl, rfl, rfl, rfl, rfl⟩

theorem test_witness_ChunkFrameRow : (sequenceK2 2).chActive = true ∧ SequencerInv (sequenceK2 2) ∧
    undisturbed 1 (sequenceK2 2).inputs = true ∧
    (2 : Byte).toNat = seqBaseNat (sequenceK2 2).cfg.seqBase + (sequenceK2 2).chSeq.toNat ∧
    (lanesOfList 15 [0x02, 0x04, 0xDA, 0xDB, 0xDC, 0xDD, 0xDE]).toList =
      ((sequenceK2 2).chHdr.toList.take (sequenceK2 2).chHlen.toNat ++
        (sequencerOffsets (sequenceK2 2)).map (Memory.read (sequenceK2 2).ep) ++ List.replicate 15 0x00).take 15 :=
  ⟨rfl, test_sequenceK2_inv 2 (.inr rfl), rfl, by decide, by decide +kernel⟩

theorem test_witness_FrameRowIsTheStep :
    (∃ f, encode (.framePower false) = .frame f) ∧
    (∃ t, exec (.framePower false) (State.reset.withFetchWord 8 0x8) = .next t) ∧
    nextOf (exec (.frameChunk 0xA3 2 3 (lanesOfList 15 [0x02, 0x04, 0xDA, 0xDB, 0xDC, 0xDD, 0xDE]))
      { sequenceK2 2 with inputs := [.reset] }) = none :=
  ⟨⟨_, rfl⟩, ⟨_, rfl⟩, by decide +kernel⟩

theorem test_witness_FrameRowWithNothingOffered :
    Instr.isRequest (.framePower true) = false ∧ State.reset.chActive = false ∧ State.reset.inputs = [] := by decide

theorem test_witness_Reset : ({ sequenceK2 1 with inputs := [.reset] } : State).inputs = .reset :: [] ∧
    ({ sequenceK2 1 with inputs := [.reset] } : State).chActive = true := by decide

theorem test_witness_Waiting :
    State.reset.chActive = false ∧ State.reset.inputs = [] ∧
    ({ State.reset with inputs := [.idle] } : State).inputs = .idle :: [] ∧
    ({ sequenceK2 1 with inputs := [.stall] } : State).inputs = .stall :: [] ∧
    ({ sequenceK2 1 with inputs := [.placeByte 65535 0x7F] } : State).inputs = .placeByte 65535 0x7F :: [] ∧
    Memory.wf (sequenceK2 1).ep := by decide +kernel

theorem test_witness_HistoriesOnlyGrow : ∃ t, step (sequenceK2 0) = .next t := ⟨_, rfl⟩

theorem test_witness_Invariant : StateInv (sequenceK2 0) ∧ ∃ t, step (sequenceK2 0) = .next t :=
  ⟨⟨by decide, fun _ => test_sequenceK2_inv 0 (.inl rfl), by decide +kernel, by simp [sequenceK2, State.reset]⟩, ⟨_, rfl⟩⟩

theorem test_witness_RunThatIsOver :
    ({ State.reset with inputs := [.idle, .placeByte 0 0x7F, .stall, .reset] } : State).chActive = false ∧
    (∀ r, Input.request r ∉
      ({ State.reset with inputs := [.idle, .placeByte 0 0x7F, .stall, .reset] } : State).inputs) ∧
    (sequenceK2 0).chActive = true ∧ Input.request Request.low ∈ (offered Request.low).inputs := by
  exact ⟨rfl, by simp, rfl, by simp [offered]⟩

end Sys2Proof.Tests
end

section
/-! The slices of a payload, and what a row and a step add to the recorded histories. -/

namespace Sys2Proof.Machine

/-! ### The slices of a payload (42_chunker.md R141) -/

/-- A slice index is below the frame count exactly where the slice begins inside the payload. -/
theorem lt_ceilDiv_iff {len size : Nat} (k : Nat) (h : 1 ≤ size) : k < ceilDiv len size ↔ k * size < len := by
  rw [← not_le, ceilDiv_le_iff k h, not_le]

/-- The length of a slice as the difference of its bounds. -/
theorem sliceLen_eq_sub (size len k : Nat) : sliceLen size len k = min ((k + 1) * size) len - k * size := by
  rw [sliceLen, Nat.succ_mul]
  omega

theorem one_le_sliceLen {size len k : Nat} (h : 1 ≤ size) (hk : k < ceilDiv len size) : 1 ≤ sliceLen size len k := by
  have := (lt_ceilDiv_iff k h).1 hk
  rw [sliceLen]
  omega

/-- The offsets of a slice ascend by one from its first. -/
theorem sliceOffsets_eq_range' (size len k : Nat) :
    sliceOffsets size len k = List.range' (k * size) (sliceLen size len k) :=
  List.range'_eq_map_range.symm

/-- Settles O25: `ceilDiv_le_iff` is the least cover, and a slice below the count begins inside the payload. -/
theorem frameCountIsTheLeastCover : Obligations.FrameCountIsTheLeastCover := by
  intro len size h
  refine ⟨(ceilDiv_le_iff _ h).1 le_rfl, fun q => (ceilDiv_le_iff q h).2, fun k hk => ?_⟩
  exact ⟨one_le_sliceLen h hk, sliceLen_le size len k, by rw [sliceOffsets_eq_range', sliceLen_eq_sub]⟩

/-! ### What is appended to the histories (10_state.md R33, R36) -/

/-- `t` is `s` with these frames, responses and reads appended, whatever became of the ten registers. -/
structure Appends (fs : List Frame) (rs : List Response) (os : List Offset) (s t : State) : Prop where
  out     : t.out = s.out ++ fs
  rsps    : t.rsps = s.rsps ++ rs
  epReads : t.epReads = s.epReads ++ os
  ep      : t.ep = s.ep
  inputs  : t.inputs = s.inputs
  cfg     : t.cfg = s.cfg

theorem Appends.refl (s : State) : Appends [] [] [] s s := by
  constructor <;> simp

/-- A request that has its effect: exactly one response, at most one frame, no read (10_state.md R32). -/
def Completes (s t : State) : Prop :=
  ∃ (fs : List Frame) (r : Response), fs.length ≤ 1 ∧ Appends fs [r] [] s t

/-- What any step may add: at most one frame and one response, never a response and a read together. -/
def Grows (s t : State) : Prop :=
  ∃ (fs : List Frame) (rs : List Response) (os : List Offset),
    Appends fs rs os s t ∧ fs.length ≤ 1 ∧ rs.length ≤ 1 ∧ (rs = [] ∨ os = [])

theorem Grows.refl (s : State) : Grows s s := ⟨[], [], [], Appends.refl s, by simp, by simp, .inl rfl⟩

theorem Completes.grows {s t : State} (h : Completes s t) : Grows s t := by
  obtain ⟨fs, r, hlen, happ⟩ := h
  exact ⟨fs, [r], [], happ, hlen, le_rfl, .inr rfl⟩

/-- A response after writes of registers alone. -/
theorem Completes.respond {s u : State} (r : Response) (h : Appends [] [] [] s u) : Completes s (respond r u) := by
  exact ⟨[], r, by simp, by constructor <;> simp [h.out, h.rsps, h.epReads, h.ep, h.inputs, h.cfg]⟩

/-- FrameBuilder's answer, whether it emits its frame or raises its error. -/
theorem Completes.emitBuilt (c : Byte) (p : List Byte) (s : State) : Completes s (emitBuilt c p s) := by
  by_cases h : p.length ≤ 17
  · rw [emitBuilt_of_le s h]
    exact ⟨[sealFrame c (padPayload p)], okResponse, le_rfl, by constructor <;> simp [respondOk]⟩
  · rw [emitBuilt_of_gt s (by omega)]
    exact .respond _ (.refl s)

/-- The emission appends one frame and the reads of its slice, and no response (42_chunker.md R143). -/
theorem sequencerEmit_appends {s t : State} (h : sequencerEmit s = .next t) :
    ∃ (f : Frame) (os : List Offset), Appends [f] [] os s t := by
  obtain ⟨-, rfl⟩ := sequencerEmit_cases h
  rw [advanceSequencer_eq]
  exact ⟨_, _, rfl, by simp, rfl, rfl, rfl, rfl⟩

theorem sequencerEmit_grows {s t : State} (h : sequencerEmit s = .next t) : Grows s t := by
  obtain ⟨f, os, happ⟩ := sequencerEmit_appends h
  exact ⟨[f], [], os, happ, le_rfl, by simp, .inl rfl⟩

/-! ### What a row of the opcode table can do -/

/-- Every request waits for the port and then completes. -/
theorem exec_request {i : Instr} (s : State) (hi : i.isRequest = true) :
    ∃ done, exec i s = whenReady s done ∧ Completes s done := by
  have raised (e : Status) : Completes s (raise e s) := .respond _ (.refl s)
  cases i with
  | build cmd plen pay =>
    refine ⟨_, rfl, ?_⟩
    split
    · exact raised _
    · exact .emitBuilt ..
  | segclr => exact ⟨_, rfl, .respond _ (by constructor <;> simp)⟩
  | segadd idx =>
    refine ⟨_, rfl, ?_⟩
    split <;> exact .respond _ (by constructor <;> simp)
  | segrd =>
    refine ⟨_, rfl, ?_⟩
    split
    · exact raised _
    · exact .respond _ (.refl s)
  | chunk cmd hlen hdr elen maxc =>
    refine ⟨_, rfl, ?_⟩
    split_ifs
    · exact .respond _ (.refl s)
    · exact raised _
    · exact raised _
    · exact .respond _ (by constructor <;> simp)
  | power on => exact ⟨_, rfl, .emitBuilt ..⟩
  | bright pct =>
    refine ⟨_, rfl, ?_⟩
    split
    · exact raised _
    · exact .emitBuilt ..
  | color r g b segsel =>
    refine ⟨_, rfl, ?_⟩
    split_ifs
    · exact raised _
    · exact .emitBuilt ..
    · exact .emitBuilt ..
  | frame | framePower | frameBright | frameColorAll | frameColorSeg | frameChunk => cases hi

/-- A request is held and changes nothing, or completes. -/
theorem exec_request_cases {i : Instr} {s t : State} (hi : i.isRequest = true) (h : exec i s = .next t) :
    t = s ∨ Completes s t := by
  obtain ⟨done, he, hc⟩ := exec_request s hi
  rw [he] at h
  obtain ⟨-, rfl⟩ | ⟨-, rfl⟩ := whenReady_cases h
  · exact .inl rfl
  · exact .inr hc

theorem exec_request_grows {i : Instr} {s t : State} (hi : i.isRequest = true) (h : exec i s = .next t) :
    Grows s t := by
  obtain rfl | hc := exec_request_cases hi h
  · exact .refl _
  · exact hc.grows

/-- A frame row is a transfer of its frame (30_encoding.md R82). -/
theorem exec_frameRow {i : Instr} (s : State) (hi : i.isRequest = false) : ∃ f, exec i s = takeFrame f s := by
  cases i with
  | build | segclr | segadd | segrd | chunk | power | bright | color => cases hi
  | frame | framePower | frameBright | frameColorAll | frameColorSeg | frameChunk => exact ⟨_, rfl⟩

/-- A producing step of an instruction is that of a request, and is the request's own. -/
theorem producingRequest_cases {i : Instr} {s t : State} (h : producingRequest i s = .next t) :
    i.isRequest = true ∧ exec i s = .next t := by
  cases i with
  | build | power | bright | color => exact ⟨rfl, h⟩
  | segclr | segadd | segrd | chunk | frame | framePower | frameBright | frameColorAll | frameColorSeg
    | frameChunk => cases h

theorem producingEmission_grows {s t : State} (h : producingEmission s = .next t) : Grows s t := by
  unfold producingEmission at h
  split at h
  · exact sequencerEmit_grows h
  · cases h

/-- A step that can put a frame on `FRM` uses up at most the event before it. -/
theorem producingStep_grows {s t : State} (h : producingStep s = .next t) : ∃ l, Grows (withInputs l s) t := by
  unfold producingStep at h
  split at h
  · exact ⟨s.inputs, producingEmission_grows h⟩
  · exact ⟨_, producingEmission_grows h⟩
  · split at h
    · exact ⟨s.inputs, sequencerEmit_grows h⟩
    · split at h
      · obtain ⟨hi, he⟩ := producingRequest_cases h
        exact ⟨_, exec_request_grows hi he⟩
      · cases h
  all_goals cases h

/-- Whatever a row does, it only appends to the histories, and leaves the payload and the parameters. -/
theorem exec_grows {i : Instr} {s t : State} (h : exec i s = .next t) : ∃ l, Grows (withInputs l s) t := by
  cases hi : i.isRequest with
  | true => exact ⟨s.inputs, exec_request_grows hi h⟩
  | false =>
    obtain ⟨f, hf⟩ := exec_frameRow s hi
    rw [hf] at h
    exact producingStep_grows (takeFrame_cases h).1

/-- A request reads nothing of the payload space and leaves what is pending. -/
theorem exec_request_keeps_reads_and_inputs {i : Instr} {s t : State} (hi : i.isRequest = true)
    (h : exec i s = .next t) : t.epReads = s.epReads ∧ t.inputs = s.inputs := by
  obtain rfl | ⟨fs, r, -, happ⟩ := exec_request_cases hi h
  · exact ⟨rfl, rfl⟩
  · exact ⟨by simpa using happ.epReads, happ.inputs⟩

/-- Settles O45: what a row does is `exec_grows`, and a request adds no read. -/
theorem noInstructionWritesThePayload : Obligations.NoInstructionWritesThePayload := by
  intro i s t h
  obtain ⟨l, fs, rs, os, happ, -⟩ := exec_grows h
  have hep : t.ep = s.ep := happ.ep
  exact ⟨fun a => by rw [hep], happ.cfg, fun hi => exec_request_keeps_reads_and_inputs hi h⟩

/-! ### What a step can do -/

theorem autonomous_grows {s t : State} (h : autonomous s = .next t) : Grows s t := by
  unfold autonomous at h
  split at h
  · exact sequencerEmit_grows h
  · cases h
    exact .refl s

/-- Every step, from the state whose payload and pending events are what the event it takes leaves of them. -/
theorem step_grows {s t : State} (h : step s = .next t) : ∃ ep l, Grows { s with ep := ep, inputs := l } t := by
  unfold step fetch at h
  rcases hin : s.inputs with _ | ⟨r | _ | _ | ⟨off, b⟩ | _, rest⟩ <;> simp only [hin] at h
  case nil => exact ⟨s.ep, s.inputs, autonomous_grows h⟩
  case cons.request =>
    by_cases ha : s.chActive = true
    · simp only [if_pos ha] at h
      exact ⟨s.ep, s.inputs, sequencerEmit_grows h⟩
    · simp only [if_neg ha] at h
      cases hd : decodeRequest r with
      | ok i =>
        simp only [hd] at h
        obtain ⟨l, hg⟩ := exec_grows h
        exact ⟨s.ep, l, hg⟩
      | error e => simp [hd] at h
  case cons.idle => exact ⟨s.ep, rest, autonomous_grows h⟩
  case cons.stall =>
    cases h
    exact ⟨s.ep, rest, .refl _⟩
  case cons.placeByte =>
    cases h
    exact ⟨Memory.write s.ep off.toNat b, rest, .refl _⟩
  case cons.reset =>
    cases h
    exact ⟨s.ep, rest, [], [], [], by constructor <;> simp, by simp, by simp, .inl rfl⟩

/-- Settles O55: the bounds of `step_grows`, which do not depend on the payload or the pending events. -/
theorem historiesOnlyGrow : Obligations.HistoriesOnlyGrow := by
  intro s t h
  obtain ⟨ep, l, fs, rs, os, happ, hfs, hrs, hread⟩ := step_grows h
  exact ⟨fs, rs, os, happ.out, hfs, happ.rsps, hrs, happ.epReads, hread, happ.cfg⟩

end Sys2Proof.Machine
end

section
/-! What a request, the emission and a step can do to the state, said once each; from them the invariant of R30,
progress, and the statements about who writes which register. -/

namespace Sys2Proof.Machine

/-! ### What a request taken can do (10_state.md R32) -/

/-- Everything a request can have done where the port was ready. -/
inductive RequestEffect (s : State) : Instr → State → Prop where
  | emitted {i : Instr} (f : Frame) (hp : ∀ u, producingRequest i u = exec i u) (hf : frameOk f = true) :
      RequestEffect s i (respondOk (emit f s))
  | raised {i : Instr} (e : Status) (he : e ≠ .ok) : RequestEffect s i (raise e s)
  | cleared : RequestEffect s .segclr (respondOk (clearSegErr (writeMask 0x00 0x00 s)))
  | toggled (idx l h : Byte) (hb : segBit (signed idx) = some (l, h)) :
      RequestEffect s (.segadd idx) (respondOk (writeMask (s.segLow ^^^ l) (s.segHigh ^^^ h) s))
  | badIndex (idx : Byte) (hb : segBit (signed idx) = none) :
      RequestEffect s (.segadd idx) (raise .invalidSegmentIndex (setSegErr s))
  | maskRead : RequestEffect s .segrd (respond ⟨.ok, s.segLow, s.segHigh, 0x00⟩ s)
  | noPayload (c : Byte) (n : BitVec 4) (h : Vector Byte 14) (e : BitVec 16) (m : Byte) :
      RequestEffect s (.chunk c n h e m) (respondOk s)
  | loaded (c : Byte) (n : BitVec 4) (h : Vector Byte 14) (e : BitVec 16) (m : Byte)
      (he : e.toNat ≠ 0) (hn : n.toNat ≤ 14) (hm : ceilDiv e.toNat (15 - n.toNat) ≤ m.toNat) :
      RequestEffect s (.chunk c n h e m)
        (respond ⟨.ok, 0x00, 0x00, BitVec.ofNat 8 (ceilDiv e.toNat (15 - n.toNat))⟩
          (setActive (loadSequencer c n (headerLanes n h) e (BitVec.ofNat 8 (ceilDiv e.toNat (15 - n.toNat))) s)))

/-- A request that delegates to FrameBuilder emits a well-formed frame or raises FrameBuilder's error. -/
theorem RequestEffect.emitBuilt {i : Instr} (s : State) (c : Byte) (p : List Byte)
    (hp : ∀ u, producingRequest i u = exec i u) : RequestEffect s i (emitBuilt c p s) := by
  by_cases h : p.length ≤ 17
  · rw [emitBuilt_of_le s h]
    exact .emitted _ hp (frameOk_sealFrame _ _)
  · rw [emitBuilt_of_gt s (by omega)]
    exact .raised _ (by decide)

/-- Every request waits for the port and then has one of these effects. -/
theorem exec_request_effect {i : Instr} (s : State) (hi : i.isRequest = true) :
    ∃ done, exec i s = whenReady s done ∧ RequestEffect s i done := by
  cases i with
  | build cmd plen pay =>
    refine ⟨_, rfl, ?_⟩
    split
    · exact .raised _ (by decide)
    · exact .emitBuilt s _ _ fun _ => rfl
  | segclr => exact ⟨_, rfl, .cleared⟩
  | segadd idx =>
    refine ⟨_, rfl, ?_⟩
    split
    · exact .badIndex idx (by assumption)
    · exact .toggled idx _ _ (by assumption)
  | segrd =>
    refine ⟨_, rfl, ?_⟩
    split
    · exact .raised _ (by decide)
    · exact .maskRead
  | chunk cmd hlen hdr elen maxc =>
    refine ⟨_, rfl, ?_⟩
    split_ifs with he hn hm
    · exact .noPayload ..
    · exact .raised _ (by decide)
    · exact .raised _ (by decide)
    · exact .loaded _ _ _ _ _ he (not_lt.1 hn) (not_lt.1 hm)
  | power on => exact ⟨_, rfl, .emitBuilt s _ _ fun _ => rfl⟩
  | bright pct =>
    refine ⟨_, rfl, ?_⟩
    split
    · exact .raised _ (by decide)
    · exact .emitBuilt s _ _ fun _ => rfl
  | color r g b segsel =>
    refine ⟨_, rfl, ?_⟩
    split_ifs
    · exact .raised _ (by decide)
    · exact .emitBuilt s _ _ fun _ => rfl
    · exact .emitBuilt s _ _ fun _ => rfl
  | frame | framePower | frameBright | frameColorAll | frameColorSeg | frameChunk => cases hi

theorem exec_request_of_ready {i : Instr} {s : State} (hi : i.isRequest = true) (ha : s.chActive = false) :
    ∃ t, exec i s = .next t ∧ RequestEffect s i t := by
  obtain ⟨t, he, heff⟩ := exec_request_effect s hi
  exact ⟨t, by rw [he, whenReady_of_ready t ha], heff⟩

theorem exec_request_of_active {i : Instr} {s : State} (hi : i.isRequest = true) (ha : s.chActive = true) :
    exec i s = .next s := by
  obtain ⟨t, he, -⟩ := exec_request_effect s hi
  rw [he, whenReady_of_active t ha]

/-- A request leaves the state, being held, or has its effect. -/
theorem exec_request_inversion {i : Instr} {s t : State} (hi : i.isRequest = true) (h : exec i s = .next t) :
    t = s ∨ RequestEffect s i t := by
  obtain ⟨done, he, heff⟩ := exec_request_effect s hi
  rw [he] at h
  obtain ⟨-, rfl⟩ | ⟨-, rfl⟩ := whenReady_cases h
  · exact .inl rfl
  · exact .inr heff

/-- A request that puts out a frame is one that produces frames, and touches no segment register. -/
theorem RequestEffect.of_out_ne {i : Instr} {s t : State} (h : RequestEffect s i t) (ho : t.out ≠ s.out) :
    (∀ u, producingRequest i u = exec i u) ∧ sameSegments s t := by
  cases h with
  | emitted f hp hf => exact ⟨hp, rfl, rfl, rfl⟩
  | raised | cleared | toggled | badIndex | maskRead | noPayload | loaded => exact absurd rfl ho

/-! ### What the sequencer emission does (42_chunker.md R143) -/

/-- The state after the emission of the frame `f`, whose data were read at `os`. -/
def afterEmission (f : Frame) (os : List Offset) (s : State) : State :=
  { s with
    chSeq := s.chSeq + 1
    chActive := decide (s.chSeq.toNat + 1 ≠ s.chTotal.toNat)
    out := s.out ++ [f]
    epReads := s.epReads ++ os }

theorem sequencerEmit_next {s : State} (h : SequencerReady s) :
    ∃ f os, frameOk f = true ∧ sequencerEmit s = .next (afterEmission f os s) := by
  refine ⟨sealFrame s.chCmd (padPayload (sequencerPayload s)), (sequencerOffsets s).map (BitVec.ofNat 16),
    frameOk_sealFrame _ _, (sequencerEmit_of_ready h).trans ?_⟩
  rw [advanceSequencer_eq]
  by_cases hlast : s.chSeq.toNat + 1 = s.chTotal.toNat <;> simp [afterEmission, emit, logReads, hlast, h.1]

theorem sequencerEmit_inversion {s t : State} (h : sequencerEmit s = .next t) :
    SequencerReady s ∧ ∃ f os, frameOk f = true ∧ t = afterEmission f os s := by
  obtain ⟨hr, -⟩ := sequencerEmit_cases h
  obtain ⟨f, os, hf, he⟩ := sequencerEmit_next hr
  rw [he] at h
  injection h with h
  exact ⟨hr, f, os, hf, h.symm⟩

/-- The frame number does not wrap: it is below a total that fits a byte. -/
theorem chSeq_succ_toNat {s : State} (h : s.chSeq.toNat < s.chTotal.toNat) :
    (s.chSeq + 1).toNat = s.chSeq.toNat + 1 := by
  have := s.chTotal.isLt
  rw [BitVec.toNat_add, show (1 : Byte).toNat = 1 from rfl]
  omega

/-! ### What a step does, one equation per event (10_state.md R35) -/

theorem step_of_nil {s : State} (h : s.inputs = []) : step s = autonomous s := by
  simp [step, fetch, h]

theorem step_of_idle {s : State} {rest : List Input} (h : s.inputs = .idle :: rest) :
    step s = autonomous (withInputs rest s) := by
  simp [step, fetch, h]

theorem step_of_stall {s : State} {rest : List Input} (h : s.inputs = .stall :: rest) :
    step s = .next (withInputs rest s) := by
  simp [step, fetch, h]

theorem step_of_placeByte {s : State} {off : Offset} {b : Byte} {rest : List Input}
    (h : s.inputs = .placeByte off b :: rest) : step s = .next (hostWrite off b (withInputs rest s)) := by
  simp [step, fetch, h]

theorem step_of_reset {s : State} {rest : List Input} (h : s.inputs = .reset :: rest) :
    step s = .next (resetRegisters (withInputs rest s)) := by
  simp [step, fetch, h]

theorem step_of_taken {s : State} {r : Request} {rest : List Input} {i : Instr} (ha : s.chActive = false)
    (h : s.inputs = .request r :: rest) (hd : decodeRequest r = .ok i) : step s = exec i (withInputs rest s) := by
  simp [step, fetch, h, ha, hd]

theorem step_of_reserved {s : State} {r : Request} {rest : List Input} {e : DecodeError} (ha : s.chActive = false)
    (h : s.inputs = .request r :: rest) (hd : decodeRequest r = .error e) :
    step s = .refused (.reservedSelector r.op) := by
  simp [step, fetch, h, ha, hd]

theorem autonomous_of_active {s : State} (ha : s.chActive = true) : autonomous s = sequencerEmit s := if_pos ha

theorem autonomous_of_ready {s : State} (ha : s.chActive = false) : autonomous s = .next s := by
  simp [autonomous, ha]

/-- A request decodes to a request row, or has a selector no host may issue (30_encoding.md R79). -/
theorem decodeRequest_cases (q : Request) :
    (∃ i, decodeRequest q = .ok i ∧ i.isRequest = true) ∨
      (∃ e, decodeRequest q = .error e) ∧ q.legal = false := by
  unfold decodeRequest
  split
  case h_9 =>
    refine .inr ⟨⟨_, rfl⟩, ?_⟩
    simp_all [Request.legal, ← BitVec.toNat_inj]
  all_goals exact .inl ⟨_, rfl, rfl⟩

/-- Everything a step can have done. -/
inductive Transition (s : State) : State → Prop where
  | emission (l : List Input) (f : Frame) (os : List Offset) (hr : SequencerReady s) (hf : frameOk f = true) :
      Transition s (afterEmission f os (withInputs l s))
  | taken {t : State} (l : List Input) (i : Instr) (ha : s.chActive = false)
      (heff : RequestEffect (withInputs l s) i t) : Transition s t
  | passed (l : List Input) : Transition s (withInputs l s)
  | written (l : List Input) (off : Offset) (b : Byte) : Transition s (hostWrite off b (withInputs l s))
  | reset (l : List Input) : Transition s (resetRegisters (withInputs l s))

theorem transition_of_emission {s t : State} {l : List Input} (h : sequencerEmit (withInputs l s) = .next t) :
    Transition s t := by
  obtain ⟨hr, f, os, hf, rfl⟩ := sequencerEmit_inversion h
  exact .emission l f os hr hf

theorem transition_of_autonomous {s t : State} {l : List Input} (h : autonomous (withInputs l s) = .next t) :
    Transition s t := by
  cases ha : s.chActive with
  | true =>
    rw [autonomous_of_active (s := withInputs l s) ha] at h
    exact transition_of_emission h
  | false =>
    rw [autonomous_of_ready (s := withInputs l s) ha] at h
    injection h with h
    exact h ▸ .passed l

theorem step_transition {s t : State} (h : step s = .next t) : Transition s t := by
  rcases hin : s.inputs with _ | ⟨r | _ | _ | ⟨off, b⟩ | _, rest⟩
  case nil =>
    rw [step_of_nil hin] at h
    exact transition_of_autonomous (l := s.inputs) h
  case cons.request =>
    cases ha : s.chActive with
    | true =>
      rw [step_of_held ha hin] at h
      exact transition_of_emission (l := s.inputs) h
    | false =>
      obtain ⟨i, hd, hi⟩ | ⟨⟨e, hd⟩, -⟩ := decodeRequest_cases r
      · obtain ⟨u, he, heff⟩ := exec_request_of_ready (s := withInputs rest s) hi ha
        rw [step_of_taken ha hin hd, he] at h
        injection h with h
        exact .taken rest i ha (h ▸ heff)
      · rw [step_of_reserved ha hin hd] at h
        cases h
  case cons.idle =>
    rw [step_of_idle hin] at h
    exact transition_of_autonomous h
  case cons.stall =>
    rw [step_of_stall hin] at h
    injection h with h
    exact h ▸ .passed rest
  case cons.placeByte =>
    rw [step_of_placeByte hin] at h
    injection h with h
    exact h ▸ .written rest off b
  case cons.reset =>
    rw [step_of_reset hin] at h
    injection h with h
    exact h ▸ .reset rest

/-! ### The invariant of the reachable states (10_state.md R30) -/

/-- R30 (b) speaks of the sequencer registers alone. -/
theorem SequencerInv.congr {s t : State} (h : SequencerInv s) (hs : sameSequencer s t) : SequencerInv t := by
  obtain ⟨-, -, hlen, hhdr, helen, htotal, hseq⟩ := hs
  constructor
  · rw [hlen]; exact h.hlen_le
  · rw [helen]; exact h.len_pos
  · rw [htotal, helen, hlen]; exact h.total_eq
  · rw [htotal]; exact h.total_pos
  · rw [hseq, htotal]; exact h.seq_lt
  · rw [hlen, hhdr]; exact h.hdr_zero

/-- The invariant where no sequencer register changed. -/
theorem StateInv.of_sameSequencer {s t : State} (h : StateInv s) (hs : sameSequencer s t)
    (hhigh : t.segHigh.getLsbD 7 = false) (hep : Memory.wf t.ep) (hout : ∀ f ∈ t.out, frameOk f = true) :
    StateInv t :=
  ⟨hhigh, fun ha => (h.sequencer (hs.1 ▸ ha)).congr hs, hep, hout⟩

theorem sameSequencer_refl (s : State) : sameSequencer s s := ⟨rfl, rfl, rfl, rfl, rfl, rfl, rfl⟩

theorem StateInv.withInputs {s : State} (h : StateInv s) (l : List Input) : StateInv (withInputs l s) :=
  h.of_sameSequencer (sameSequencer_refl s) h.segHigh_bit7 h.ep_wf h.out_ok

/-- One more well-formed frame keeps `OUT` well-formed. -/
theorem frameOk_of_mem_append {l : List Frame} {f : Frame} (h : ∀ g ∈ l, frameOk g = true) (hf : frameOk f = true) :
    ∀ g ∈ l ++ [f], frameOk g = true := by
  simpa [or_imp, forall_and] using ⟨h, hf⟩

/-- Segments 8 to 14 lie below bit 7. -/
theorem segBit_high_bit7 {i : Int} {l h : Byte} (hb : segBit i = some (l, h)) : h.getLsbD 7 = false := by
  obtain ⟨-, he⟩ | ⟨-, he⟩ | ⟨hi, he⟩ := segBit_cases i <;> rw [he] at hb
  · cases hb
  · cases hb
    rfl
  · cases hb
    rw [BitVec.getLsbD_ofNat, Nat.one_shiftLeft, Nat.testBit_two_pow]
    simp
    omega

theorem headerLanes_of_le {n : BitVec 4} {h : Vector Byte 14} {i : Fin 14} (hi : n.toNat ≤ i.val) :
    (headerLanes n h)[i] = 0x00 := by
  simp [headerLanes, not_lt.2 hi]

/-- An accepted CHUNK leaves the registers as R30 (b) says. -/
theorem SequencerInv.of_loaded {c : Byte} {n : BitVec 4} {h : Vector Byte 14} {e : BitVec 16} {m : Byte} (s : State)
    (he : e.toNat ≠ 0) (hn : n.toNat ≤ 14) (hm : ceilDiv e.toNat (15 - n.toNat) ≤ m.toNat) :
    SequencerInv (loadSequencer c n (headerLanes n h) e (BitVec.ofNat 8 (ceilDiv e.toNat (15 - n.toNat))) s) := by
  have hfits : (BitVec.ofNat 8 (ceilDiv e.toNat (15 - n.toNat))).toNat = ceilDiv e.toNat (15 - n.toNat) :=
    Nat.mod_eq_of_lt (hm.trans_lt m.isLt)
  have hpos : 0 < (BitVec.ofNat 8 (ceilDiv e.toNat (15 - n.toNat))).toNat :=
    hfits.symm ▸ (lt_ceilDiv_iff 0 (by omega)).2 (by omega)
  exact {
    hlen_le := hn
    len_pos := Nat.pos_of_ne_zero he
    total_eq := hfits
    total_pos := hpos
    seq_lt := hpos
    hdr_zero := fun _ => headerLanes_of_le }

/-- The emission of a frame that is not the last keeps R30 (b). -/
theorem SequencerInv.afterEmission {s : State} (h : SequencerInv s) (f : Frame) (os : List Offset)
    (ha : (afterEmission f os s).chActive = true) : SequencerInv (afterEmission f os s) := by
  have hlast : s.chSeq.toNat + 1 ≠ s.chTotal.toNat := of_decide_eq_true ha
  have hlt := h.seq_lt
  exact { h with
    seq_lt := by
      change (s.chSeq + 1).toNat < s.chTotal.toNat
      rw [chSeq_succ_toNat hlt]
      omega }

theorem StateInv.afterEmission {s : State} (h : StateInv s) (f : Frame) (os : List Offset) (ha : s.chActive = true)
    (hf : frameOk f = true) : StateInv (afterEmission f os s) :=
  ⟨h.segHigh_bit7, (h.sequencer ha).afterEmission f os, h.ep_wf, frameOk_of_mem_append h.out_ok hf⟩

/-- Whatever a request does keeps the invariant. -/
theorem RequestEffect.keeps_inv {i : Instr} {s t : State} (h : RequestEffect s i t) (hinv : StateInv s) :
    StateInv t := by
  have keep {u : State} (hs : sameSequencer s u) (hhigh : u.segHigh.getLsbD 7 = false) (hep : u.ep = s.ep)
      (hout : u.out = s.out) : StateInv u :=
    hinv.of_sameSequencer hs hhigh (hep ▸ hinv.ep_wf) (hout ▸ hinv.out_ok)
  cases h with
  | emitted f _ hf =>
    exact hinv.of_sameSequencer (sameSequencer_refl s) hinv.segHigh_bit7 hinv.ep_wf
      (frameOk_of_mem_append hinv.out_ok hf)
  | raised | maskRead | noPayload | badIndex => exact keep (sameSequencer_refl s) hinv.segHigh_bit7 rfl rfl
  | cleared => exact keep (sameSequencer_refl s) (by simp) rfl rfl
  | toggled idx l h hb =>
    have hbit : (s.segHigh ^^^ h).getLsbD 7 = false := by
      rw [BitVec.getLsbD_xor, hinv.segHigh_bit7, segBit_high_bit7 hb, Bool.xor_false]
    exact keep (sameSequencer_refl s) hbit rfl rfl
  | loaded c n h e m he hn hm =>
    refine ⟨hinv.segHigh_bit7, fun _ => ?_, hinv.ep_wf, hinv.out_ok⟩
    obtain ⟨hlen, hpos, htotal, htpos, hseq, hhdr⟩ := SequencerInv.of_loaded (c := c) (h := h) s he hn hm
    exact ⟨hlen, hpos, htotal, htpos, hseq, hhdr⟩

/-- Settles O57: each kind of step keeps the invariant. -/
theorem everyStepKeepsTheInvariant : Obligations.EveryStepKeepsTheInvariant := by
  intro s t hinv h
  cases step_transition h with
  | emission l f os hr hf => exact (hinv.withInputs l).afterEmission f os hr.1 hf
  | taken l i ha heff => exact heff.keeps_inv (hinv.withInputs l)
  | passed l => exact hinv.withInputs l
  | written l off b =>
    exact hinv.of_sameSequencer (sameSequencer_refl s) hinv.segHigh_bit7
      (Memory.write_wf s.ep off.toNat b off.isLt hinv.ep_wf) hinv.out_ok
  | reset l => exact ⟨by simp, nofun, hinv.ep_wf, hinv.out_ok⟩

/-- Settles O56: nothing is active, placed or put out. -/
theorem resetStateMeetsTheInvariant : Obligations.ResetStateMeetsTheInvariant :=
  ⟨rfl, nofun, Memory.wf_nil, nofun⟩

/-! ### Progress (60_exceptions.md R192) -/

theorem StateInv.sequencerEmit_next {s : State} (h : StateInv s) (ha : s.chActive = true) :
    ∃ t, sequencerEmit s = .next t := by
  obtain ⟨f, os, -, he⟩ := Machine.sequencerEmit_next (sequencerReady_of_inv ha (h.sequencer ha))
  exact ⟨_, he⟩

theorem StateInv.autonomous_next {s : State} (h : StateInv s) : ∃ t, autonomous s = .next t := by
  cases ha : s.chActive with
  | true => exact autonomous_of_active ha ▸ h.sequencerEmit_next ha
  | false => exact ⟨s, autonomous_of_ready ha⟩

/-- Settles O58: by the event that comes next; only a request that does not decode stops the machine. -/
theorem invariantStatesNeverFault : Obligations.InvariantStatesNeverFault := by
  intro s hinv
  rcases hin : s.inputs with _ | ⟨r | _ | _ | ⟨off, b⟩ | _, rest⟩
  case nil => exact .inl (step_of_nil hin ▸ hinv.autonomous_next)
  case cons.request =>
    cases ha : s.chActive with
    | true => exact .inl (step_of_held ha hin ▸ hinv.sequencerEmit_next ha)
    | false =>
      obtain ⟨i, hd, hi⟩ | ⟨⟨e, hd⟩, hlegal⟩ := decodeRequest_cases r
      · obtain ⟨t, he, -⟩ := exec_request_of_ready (s := withInputs rest s) hi ha
        exact .inl ⟨t, (step_of_taken ha hin hd).trans he⟩
      · exact .inr ⟨r, rest, rfl, hlegal, step_of_reserved ha hin hd⟩
  case cons.idle => exact .inl (step_of_idle hin ▸ (hinv.withInputs rest).autonomous_next)
  case cons.stall => exact .inl ⟨_, step_of_stall hin⟩
  case cons.placeByte => exact .inl ⟨_, step_of_placeByte hin⟩
  case cons.reset => exact .inl ⟨_, step_of_reset hin⟩

/-! ### A sequence from its first frame to its last (42_chunker.md R152, R155) -/

/-- Settles O33: the request is held, and the emission answers nothing and touches no segment register. -/
theorem requestIsHeldWhileActive : Obligations.RequestIsHeldWhileActive := by
  intro i s hi ha
  refine ⟨exec_request_of_active hi ha, fun r rest hin => ⟨step_of_held ha hin, fun t ht => ?_⟩⟩
  rw [step_of_held ha hin] at ht
  obtain ⟨-, f, os, -, rfl⟩ := sequencerEmit_inversion ht
  exact ⟨rfl, rfl, rfl, rfl, rfl⟩

/-- The frames an active sequence still owes (10_state.md R37). -/
def framesOwed (s : State) : Nat := s.chTotal.toNat - s.chSeq.toNat

/-- A sequence under way or just ended, which nothing disturbs until it has ended. -/
structure Sequencing (s : State) : Prop where
  active_eq : s.chActive = decide (0 < framesOwed s)
  inv       : s.chActive = true → SequencerInv s
  quiet     : undisturbed (framesOwed s) s.inputs = true

/-- An undisturbed step of an active sequence puts out one frame. -/
theorem step_of_sequencerInv {s : State} (ha : s.chActive = true) (hinv : SequencerInv s)
    (hq : undisturbed 1 s.inputs = true) :
    ∃ f os, frameOk f = true ∧ step s = .next (afterEmission f os (withInputs (eventsAfter 1 s.inputs) s)) := by
  rw [step_of_active ha hq]
  exact sequencerEmit_next (sequencerReady_of_inv ha (hinv.congr (sameSequencer_refl s)))

theorem framesOwed_afterEmission {s : State} (h : s.chSeq.toNat < s.chTotal.toNat) (f : Frame) (os : List Offset) :
    framesOwed (afterEmission f os s) = s.chTotal.toNat - (s.chSeq.toNat + 1) :=
  congrArg (s.chTotal.toNat - ·) (chSeq_succ_toNat h)

/-- The sequence goes on after an emission exactly while frames are owed. -/
theorem afterEmission_chActive {s : State} (h : s.chSeq.toNat < s.chTotal.toNat) (f : Frame) (os : List Offset) :
    (afterEmission f os s).chActive = decide (0 < framesOwed (afterEmission f os s)) := by
  rw [framesOwed_afterEmission h]
  exact decide_eq_decide.2 (by omega)

/-- While a frame is owed the step is the emission of one. -/
theorem Sequencing.step_next {s : State} (h : Sequencing s) (hpos : 0 < framesOwed s) :
    ∃ t, step s = .next t ∧ Sequencing t ∧ framesOwed t + 1 = framesOwed s ∧
      t.chSeq.toNat = s.chSeq.toNat + 1 ∧ t.out.length = s.out.length + 1 := by
  have ha : s.chActive = true := h.active_eq.trans (decide_eq_true hpos)
  have hinv := h.inv ha
  obtain ⟨n, hn⟩ := Nat.exists_eq_add_of_le' hpos
  obtain ⟨hfirst, hrest⟩ := (undisturbed_succ n s.inputs).1 (hn ▸ h.quiet)
  obtain ⟨f, os, -, hstep⟩ := step_of_sequencerInv ha hinv hfirst
  have hinv' : SequencerInv (withInputs (eventsAfter 1 s.inputs) s) := hinv.congr (sameSequencer_refl s)
  have howed : framesOwed (afterEmission f os (withInputs (eventsAfter 1 s.inputs) s)) = n := by
    refine (framesOwed_afterEmission hinv'.seq_lt f os).trans ?_
    rw [withInputs_chTotal, withInputs_chSeq, ← Nat.sub_sub]
    exact Nat.sub_eq_of_eq_add hn
  exact ⟨_, hstep, ⟨afterEmission_chActive hinv'.seq_lt f os, hinv'.afterEmission f os, howed ▸ hrest⟩,
    by rw [howed, hn], chSeq_succ_toNat hinv.seq_lt, List.length_append⟩

/-- Up to the last frame owed, each step of a run puts out one frame. -/
theorem Sequencing.run_next {s : State} (h : Sequencing s) {j : Nat} (hj : j ≤ framesOwed s) :
    ∃ u, core.run j s = .next u ∧ u.chActive = decide (j < framesOwed s) ∧
      u.chSeq.toNat = s.chSeq.toNat + j ∧ u.out.length = s.out.length + j := by
  induction j generalizing s with
  | zero => exact ⟨s, run_zero s, h.active_eq, rfl, rfl⟩
  | succ j ih =>
    obtain ⟨t, hstep, ht, howed, hseq, hout⟩ := h.step_next (by omega)
    obtain ⟨u, hrun, hactive, hseq', hout'⟩ := ih ht (by omega)
    refine ⟨u, (run_succ hstep).trans hrun, ?_, by omega, by omega⟩
    rw [hactive, ← howed]
    exact decide_eq_decide.2 (by omega)

/-- Settles O34: `Sequencing.run_next` before the last frame owed and at it. -/
theorem sequenceEndsAfterTheFramesOwed : Obligations.SequenceEndsAfterTheFramesOwed := by
  intro s ha hinv hq
  have hlt := hinv.seq_lt
  have hs : Sequencing s :=
    ⟨ha.trans (decide_eq_true (by unfold framesOwed; omega)).symm, fun _ => hinv, hq⟩
  constructor
  · intro j hj
    obtain ⟨u, hrun, hactive, hseq, hout⟩ := hs.run_next (Nat.le_of_lt hj)
    exact ⟨u, hrun, hactive.trans (decide_eq_true hj), hseq, hout⟩
  · obtain ⟨u, hrun, hactive, -, hout⟩ := hs.run_next le_rfl
    exact ⟨u, hrun, hactive.trans (by simp), hout⟩

/-! ### The frame rows (30_encoding.md R82) -/

/-- What the frame port makes of a step from `s` with outcome `o`: that outcome, or a refusal where the step puts out
no frame. -/
def OffersFramesOf (s : State) (o p : Host.Outcome State Fault Refusal) : Prop :=
  p = o ∨ p = .refused .frameNotOffered ∧ ∀ t, o = .next t → t.out = s.out

theorem OffersFramesOf.silent {s u : State} {o p : Host.Outcome State Fault Refusal} (hp : p = .refused .frameNotOffered)
    (ho : o = .next u) (hu : u.out = s.out) : OffersFramesOf s o p := by
  refine .inr ⟨hp, fun t ht => ?_⟩
  cases ho.symm.trans ht
  exact hu

/-- The requests that are no producing step are those that put out no frame. -/
theorem producingRequest_offers {i : Instr} {s : State} (hi : i.isRequest = true) (ha : s.chActive = false) :
    OffersFramesOf s (exec i s) (producingRequest i s) := by
  obtain ⟨u, he, heff⟩ := exec_request_of_ready hi ha
  by_cases ho : u.out = s.out
  · cases i with
    | build | power | bright | color => exact .inl rfl
    | segclr | segadd | segrd | chunk => exact .silent rfl he ho
    | frame | framePower | frameBright | frameColorAll | frameColorSeg | frameChunk => cases hi
  · exact .inl ((heff.of_out_ne ho).1 s)

/-- The block left to itself emits, or puts out nothing. -/
theorem producingEmission_offers (s : State) : OffersFramesOf s (autonomous s) (producingEmission s) := by
  cases ha : s.chActive with
  | true => exact .inl (by simp [producingEmission, autonomous, ha])
  | false => exact .silent (by simp [producingEmission, ha]) (autonomous_of_ready ha) rfl

/-- The producing step is the machine's step, or the machine's step puts out no frame. -/
theorem producingStep_offers (s : State) : OffersFramesOf s (step s) (producingStep s) := by
  rcases hin : s.inputs with _ | ⟨r | _ | _ | ⟨off, b⟩ | _, rest⟩
  case nil =>
    rw [step_of_nil hin, show producingStep s = producingEmission s by simp [producingStep, hin]]
    exact producingEmission_offers s
  case cons.request =>
    cases ha : s.chActive with
    | true => exact .inl (by rw [step_of_held ha hin]; simp [producingStep, hin, ha])
    | false =>
      obtain ⟨i, hd, hi⟩ | ⟨⟨e, hd⟩, -⟩ := decodeRequest_cases r
      · rw [step_of_taken ha hin hd,
          show producingStep s = producingRequest i (withInputs rest s) by simp [producingStep, hin, ha, hd]]
        exact producingRequest_offers (s := withInputs rest s) hi ha
      · exact .inr ⟨by simp [producingStep, hin, ha, hd], by simp [step_of_reserved ha hin hd]⟩
  case cons.idle =>
    rw [step_of_idle hin, show producingStep s = producingEmission (withInputs rest s) by simp [producingStep, hin]]
    exact producingEmission_offers (withInputs rest s)
  case cons.stall => exact .silent (by simp [producingStep, hin]) (step_of_stall hin) rfl
  case cons.placeByte => exact .silent (by simp [producingStep, hin]) (step_of_placeByte hin) rfl
  case cons.reset => exact .silent (by simp [producingStep, hin]) (step_of_reset hin) rfl

/-- The sink takes a frame exactly where the machine's step appends it. -/
theorem takeFrame_iff {f : Frame} {s t : State} :
    takeFrame f s = .next t ↔ step s = .next t ∧ t.out = s.out ++ [f] := by
  constructor
  · intro h
    obtain ⟨hp, ho⟩ := takeFrame_cases h
    obtain he | ⟨he, -⟩ := producingStep_offers s
    · exact ⟨he ▸ hp, ho⟩
    · rw [he] at hp
      cases hp
  · rintro ⟨hs, ho⟩
    obtain he | ⟨-, hsilent⟩ := producingStep_offers s
    · exact takeFrame_of_producing (he.trans hs) ho
    · simp [hsilent t hs] at ho

/-- A frame row is the transfer of the frame it encodes to. -/
theorem exec_eq_takeFrame {i : Instr} {f : Frame} (s : State) (h : encode i = .frame f) : exec i s = takeFrame f s := by
  cases i with
  | build | segclr | segadd | segrd | chunk | power | bright | color => cases h
  | frame | framePower | frameBright | frameColorAll | frameColorSeg | frameChunk =>
    cases h
    rfl

/-- Settles O50: a frame row is the transfer of its frame, and `takeFrame_iff` says where that answers. -/
theorem frameRowIsTheStepThatEmitsIt : Obligations.FrameRowIsTheStepThatEmitsIt := by
  intro i f s t h
  rw [exec_eq_takeFrame s h]
  exact takeFrame_iff

/-- Settles O51: with nothing offered there is no producing step. -/
theorem frameRowWithNothingOfferedIsRefused : Obligations.FrameRowWithNothingOfferedIsRefused := by
  intro i s hi ha hin
  obtain ⟨f, hf⟩ := exec_frameRow s hi
  have hp : producingStep s = .refused .frameNotOffered := by simp [producingStep, producingEmission, hin, ha]
  rw [hf, takeFrame, hp]

/-! ### Who answers, and who writes which register (10_state.md R20, R23, R24) -/

/-- Settles O41: read off the effect of the request. -/
theorem everyRequestGetsOneResponse : Obligations.EveryRequestGetsOneResponse := by
  intro i s hi ha
  obtain ⟨t, he, heff⟩ := exec_request_of_ready hi ha
  refine ⟨t, ?_⟩
  cases heff with
  | emitted f _ hf =>
    exact ⟨_, he, rfl, .inr ⟨f, rfl, hf⟩, fun hne => absurd rfl hne, fun _ => ⟨rfl, rfl⟩, fun _ => rfl⟩
  | cleared | toggled | noPayload =>
    exact ⟨_, he, rfl, .inl rfl, fun hne => absurd rfl hne, fun _ => ⟨rfl, rfl⟩, fun _ => rfl⟩
  | maskRead => exact ⟨_, he, rfl, .inl rfl, fun hne => absurd rfl hne, fun hne => absurd rfl hne, fun _ => rfl⟩
  | loaded c n hdr e m =>
    exact ⟨_, he, rfl, .inl rfl, fun hne => absurd rfl hne, fun _ => ⟨rfl, rfl⟩,
      fun hne => absurd rfl (hne c n hdr e m)⟩
  | raised e _ =>
    exact ⟨_, he, rfl, .inl rfl, fun _ => ⟨rfl, rfl, rfl, rfl, fun hne => absurd rfl hne⟩,
      fun _ => ⟨rfl, rfl⟩, fun _ => rfl⟩
  | badIndex idx _ =>
    exact ⟨_, he, rfl, .inl rfl, fun _ => ⟨rfl, rfl, rfl, rfl, fun _ => ⟨idx, rfl, rfl⟩⟩,
      fun _ => ⟨rfl, rfl⟩, fun _ => rfl⟩

/-- A step that puts out a frame leaves the segment registers. -/
theorem Transition.sameSegments_of_out_ne {s t : State} (h : Transition s t) (ho : t.out ≠ s.out) :
    sameSegments s t := by
  cases h with
  | emission => exact ⟨rfl, rfl, rfl⟩
  | taken l i _ heff => exact (heff.of_out_ne ho).2
  | passed | written | reset => exact absurd rfl ho

/-- A row leaves the segment registers, or is a request that has its effect. -/
theorem exec_segments {i : Instr} {s t : State} (h : exec i s = .next t) : sameSegments s t ∨ RequestEffect s i t := by
  cases hi : i.isRequest with
  | true =>
    obtain rfl | heff := exec_request_inversion hi h
    · exact .inl ⟨rfl, rfl, rfl⟩
    · exact .inr heff
  | false =>
    obtain ⟨f, hf⟩ := exec_frameRow s hi
    obtain ⟨hs, ho⟩ := takeFrame_iff.1 (hf ▸ h)
    exact .inl ((step_transition hs).sameSegments_of_out_ne (by simp [ho]))

theorem segBit_eq_none {i : Int} (h : segBit i = none) : i < 0 ∨ 15 ≤ i := by
  obtain ⟨hi, -⟩ | ⟨-, he⟩ | ⟨-, he⟩ := segBit_cases i
  · exact hi
  · simp [he] at h
  · simp [he] at h

/-- Settles O43: of the effects of a request, those that write a segment register are SEGCLR's and SEGADD's. -/
theorem segmentRegistersHaveTwoWriters : Obligations.SegmentRegistersHaveTwoWriters := by
  intro i s t h
  have same (hs : sameSegments s t) :
      (i ≠ .segclr → (∀ x, i ≠ .segadd x) → sameSegments s t) ∧
      (s.segErr = true → t.segErr = false → i = .segclr) ∧
      (s.segErr = false → t.segErr = true → ∃ x, i = .segadd x ∧ (x.toInt < 0 ∨ 15 ≤ x.toInt)) :=
    ⟨fun _ _ => hs, by simp +contextual [hs.2.2], by simp +contextual [hs.2.2]⟩
  obtain hs | heff := exec_segments h
  · exact same hs
  cases heff with
  | emitted | raised | maskRead | noPayload | loaded => exact same ⟨rfl, rfl, rfl⟩
  | cleared => exact ⟨fun hne => absurd rfl hne, fun _ _ => rfl, by simp⟩
  | toggled idx l h hb => exact ⟨fun _ hne => absurd rfl (hne idx), by simp +contextual, by simp +contextual⟩
  | badIndex idx hb => exact ⟨fun _ hne => absurd rfl (hne idx), by simp, fun _ _ => ⟨idx, rfl, segBit_eq_none hb⟩⟩

/-- Settles O44: of the effects of a request, only CHUNK's load writes a sequencer register. -/
theorem sequencerRegistersHaveOneRequestWriter : Obligations.SequencerRegistersHaveOneRequestWriter := by
  intro i s t hi h hne
  obtain rfl | heff := exec_request_inversion hi h
  · exact sameSequencer_refl t
  cases heff with
  | emitted | raised | cleared | toggled | badIndex | maskRead | noPayload => exact sameSequencer_refl s
  | loaded c n hdr e m => exact absurd rfl (hne c n hdr e m)

/-! ### Taking a request, waiting, reset and the end of a run (10_state.md R29, R33, R37) -/

/-- Settles O46, by the equation of the step for a request taken. -/
theorem stepRunsTheRequestTaken : Obligations.StepRunsTheRequestTaken :=
  fun _ _ _ _ ha hin hd => step_of_taken ha hin hd

/-- Settles O52, by the equation of the step for a reset. -/
theorem resetClearsTheTenRegisters : Obligations.ResetClearsTheTenRegisters :=
  fun _ _ hin => step_of_reset hin

/-- Settles O53: nine registers are zero as written, and every header lane is the replicated zero. -/
theorem resetStateRegistersAreZero : Obligations.ResetStateRegistersAreZero :=
  ⟨rfl, rfl, rfl, rfl, rfl, rfl, fun _ => Vector.getElem_replicate _, rfl, rfl, rfl⟩

/-- Settles O54: the equation of the step for each event, and the laws of the payload memory for a byte placed. -/
theorem waitingAndHostWritesTouchNoRegister : Obligations.WaitingAndHostWritesTouchNoRegister := by
  intro s rest
  refine ⟨fun ha hin => ?_, fun ha hin => ?_, step_of_stall, fun off b hin hwf => ?_⟩
  · rw [step_of_nil hin, autonomous_of_ready ha]
  · exact (step_of_idle hin).trans (autonomous_of_ready ha)
  · exact ⟨_, step_of_placeByte hin, Memory.read_write_same s.ep off.toNat b hwf,
      fun a ha => Memory.read_write_other s.ep off.toNat b a ha⟩

/-- A run from a final state stays final and adds nothing to the histories. -/
theorem run_of_final {s : State} (h : Final s) (k : Nat) :
    ∃ t, core.run k s = .next t ∧ Final t ∧ t.out = s.out ∧ t.rsps = s.rsps ∧ t.epReads = s.epReads := by
  induction k generalizing s with
  | zero => exact ⟨s, run_zero s, h, rfl, rfl, rfl⟩
  | succ k ih =>
    obtain ⟨u, hstep, hu, hout, hrsps, hreads⟩ := step_of_final h
    obtain ⟨t, hrun, ht, hout', hrsps', hreads'⟩ := ih hu
    exact ⟨t, (run_succ hstep).trans hrun, ht, hout'.trans hout, hrsps'.trans hrsps, hreads'.trans hreads⟩

/-- Settles O60: a run from a final state, and what being final excludes. -/
theorem runThatIsOverStaysOver : Obligations.RunThatIsOverStaysOver := by
  refine ⟨fun s k ha hr => ⟨⟨hr, ha⟩, run_of_final ⟨hr, ha⟩ k⟩, ?_, fun s r hmem hfinal => hfinal.1 r hmem⟩
  rintro s ha ⟨-, hinactive⟩
  simp [ha] at hinactive

end Sys2Proof.Machine
end

section
/-! The frame as a 160-bit word and as hexadecimal text, and the requests that depend on no register. -/

namespace Sys2Proof.Machine

/-! ### The lanes of a wire and the wire that carries them (20_memory.md R51) -/

/-- Every bit of a wire lies in a lane, so the lanes determine the wire. -/
theorem lanesOf_injective (n : Nat) : Function.Injective (lanesOf n) := by
  intro v w h
  apply BitVec.eq_of_getLsbD_eq
  intro j hj
  have hlane : n - 1 - j / 8 < n := by omega
  have hbyte : (lanesOf n v)[n - 1 - j / 8] = (lanesOf n w)[n - 1 - j / 8] := by rw [h]
  rw [lanesOf_getElem n v _ hlane, lanesOf_getElem n w _ hlane,
    show n - 1 - (n - 1 - j / 8) = j / 8 by omega] at hbyte
  have hbit := congrArg (·.getLsbD (j % 8)) hbyte
  simpa [Nat.mod_lt, Nat.div_add_mod] using hbit

/-- The lanes of a wire put it together again. -/
@[simp] theorem wireOf_lanesOf (n : Nat) (w : BitVec (8 * n)) : wireOf (lanesOf n w) = w :=
  lanesOf_injective n (lanesOf_wireOf _)

/-- Lane `i` of `n` on the wire that carries them. -/
theorem wireOf_extractLsb' {n : Nat} (v : Vector Byte n) (i : Nat) (h : i < n) :
    (wireOf v).extractLsb' (8 * (n - 1 - i)) 8 = v[i] := by
  rw [← lanesOf_getElem n (wireOf v) i h]
  simp only [lanesOf_wireOf]

/-- Settles O7: a frame is a wire of 20 lanes, and packing and reading lanes are inverse to each other. -/
theorem frameByteLiesAtItsBits : Obligations.FrameByteLiesAtItsBits := by
  refine ⟨fun f k => ?_, lanesOf_wireOf, wireOf_lanesOf 20⟩
  rw [show 152 - 8 * k.val = 8 * (20 - 1 - k.val) by omega]
  exact wireOf_extractLsb' f k.val k.isLt

/-! ### The hexadecimal rendering (20_memory.md R53) -/

/-- Two characters for each byte. -/
theorem length_flatMap_hexByte (s : List Byte) : (s.flatMap hexByte).length = 2 * s.length := by
  simp [hexByte, Nat.mul_comm]

/-- The characters of byte `k`: its two nibbles, high one first. -/
theorem flatMap_hexByte_getElem? (s : List Byte) (k : Nat) (h : k < s.length) :
    (s.flatMap hexByte)[2 * k]? = some (hexDigit (s[k].toNat / 16)) ∧
      (s.flatMap hexByte)[2 * k + 1]? = some (hexDigit (s[k].toNat % 16)) := by
  induction s generalizing k with
  | nil => simp at h
  | cons b s ih =>
    cases k with
    | zero => exact ⟨rfl, rfl⟩
    | succ k => exact ih k (Nat.lt_of_succ_lt_succ h)

/-- The characters of byte `k` of a frame. -/
theorem frameHex_getElem? (f : Frame) (k : Fin 20) :
    (frameHex f)[2 * k.val]? = some (hexDigit (f[k].toNat / 16)) ∧
      (frameHex f)[2 * k.val + 1]? = some (hexDigit (f[k].toNat % 16)) := by
  simpa [frameHex] using flatMap_hexByte_getElem? f.toList k.val (by simp)

/-- Byte `k` of a frame is the digit of its 160-bit value in base 256. -/
theorem frame_byte_eq_digit (f : Frame) (k : Fin 20) :
    f[k].toNat = (frameWord f).toNat / 256 ^ (19 - k.val) % 256 := by
  have hdigit := bytesNat_digit f.toList k.val (by simp)
  simpa [frameWord] using hdigit.symm

/-- The high nibble of a base-256 digit is a base-16 digit. -/
theorem high_nibble_of_digit (n m : Nat) : n / 256 ^ m % 256 / 16 = n / 16 ^ (2 * m + 1) % 16 := by
  rw [Nat.mod_mul_right_div_self _ 16 16, Nat.div_div_eq_div_mul, Nat.pow_succ, Nat.pow_mul]

/-- The low nibble of a base-256 digit is a base-16 digit. -/
theorem low_nibble_of_digit (n m : Nat) : n / 256 ^ m % 256 % 16 = n / 16 ^ (2 * m) % 16 := by
  rw [Nat.mod_mod_of_dvd _ (by decide), Nat.pow_mul]

/-- Character `j` is a nibble of byte `j / 2`, so it is digit `j` of the 160-bit value. -/
theorem frameHex_getElem?_eq_word_digit (f : Frame) (j : Fin 40) :
    (frameHex f)[j.val]? = some (hexDigit ((frameWord f).toNat / 16 ^ (39 - j.val) % 16)) := by
  obtain ⟨hhigh, hlow⟩ := frameHex_getElem? f ⟨j.val / 2, by omega⟩
  rw [frame_byte_eq_digit, high_nibble_of_digit] at hhigh
  rw [frame_byte_eq_digit, low_nibble_of_digit] at hlow
  dsimp only at hhigh hlow
  obtain heven | hodd := Nat.mod_two_eq_zero_or_one j.val
  · rwa [show 2 * (j.val / 2) = j.val by omega, show 2 * (19 - j.val / 2) + 1 = 39 - j.val by omega] at hhigh
  · rwa [show 2 * (j.val / 2) + 1 = j.val by omega, show 2 * (19 - j.val / 2) = 39 - j.val by omega] at hlow

/-- Settles O8: two characters a byte, the nibbles of each byte, and each nibble a digit of the word. -/
theorem frameHexIsTheWordInHex : Obligations.FrameHexIsTheWordInHex := by
  intro f
  have hlen : (frameHex f).length = 40 := by rw [frameHex, length_flatMap_hexByte, Vector.length_toList]
  exact ⟨hlen, frameHex_getElem? f, frameHex_getElem?_eq_word_digit f⟩

/-! ### Requests that depend on no register (20_memory.md R60, 40_frame_assembly.md R107) -/

/-- With the parameters `cfg`, row `i` appends the same frames and the same response in every quiescent state, and
leaves the rest of it. -/
def AnswersAlike (cfg : Config) (i : Instr) : Prop :=
  ∃ (fs : List Frame) (r : Response), ∀ s : State, s.chActive = false → s.cfg = cfg →
    exec i s = .next { s with out := s.out ++ fs, rsps := s.rsps ++ [r] }

/-- A row that raises the same error in every state with these parameters. -/
theorem AnswersAlike.of_raise {cfg : Config} {i : Instr} (e : Status)
    (h : ∀ s : State, s.cfg = cfg → exec i s = whenReady s (raise e s)) : AnswersAlike cfg i := by
  refine ⟨[], errorResponse e, fun s ha hc => ?_⟩
  rw [h s hc, whenReady_of_ready _ ha, List.append_nil]
  rfl

/-- A row that delegates the same command and payload to FrameBuilder in every state with these parameters. -/
theorem AnswersAlike.of_emitBuilt {cfg : Config} {i : Instr} (c : Byte) (p : List Byte)
    (h : ∀ s : State, s.cfg = cfg → exec i s = whenReady s (emitBuilt c p s)) : AnswersAlike cfg i := by
  by_cases hp : p.length ≤ 17
  · refine ⟨[sealFrame c (padPayload p)], okResponse, fun s ha hc => ?_⟩
    rw [h s hc, whenReady_of_ready _ ha, emitBuilt_of_le s hp]
    rfl
  · exact .of_raise .invalidPayloadLength fun s hc => by rw [h s hc, emitBuilt_of_gt s (by omega)]

theorem build_answersAlike (cfg : Config) (c : Byte) (n : BitVec 5) (p : Vector Byte 17) :
    AnswersAlike cfg (.build c n p) := by
  by_cases hn : payloadLen < n.toNat
  · exact .of_raise .invalidPayloadLength fun s _ => congrArg (whenReady s) (if_pos hn)
  · exact .of_emitBuilt c (payloadLanes n p) fun s _ => congrArg (whenReady s) (if_neg hn)

theorem power_answersAlike (cfg : Config) (on : Bool) : AnswersAlike cfg (.power on) :=
  .of_emitBuilt cmdPower (powerPayload on) fun _ _ => rfl

/-- BRIGHT is the one of the four that reads a parameter, the rounding mode. -/
theorem bright_answersAlike (cfg : Config) (pct : Byte) : AnswersAlike cfg (.bright pct) := by
  by_cases hr : signed pct < 0 ∨ 100 < signed pct
  · exact .of_raise .invalidValueRange fun s _ => congrArg (whenReady s) (if_pos hr)
  · refine .of_emitBuilt cmdBright (brightPayload (BitVec.ofNat 8 (level cfg.roundMode (signed pct).toNat))) ?_
    rintro s rfl
    exact congrArg (whenReady s) (if_neg hr)

theorem broadcastColor_answersAlike (cfg : Config) (r g b : Byte) : AnswersAlike cfg (.color r g b false) :=
  .of_emitBuilt cmdColor (colorPayload modeAll r g b maskAllLow maskAllHigh) fun _ _ => rfl

/-- Settles O42: each of the four answers alike in all quiescent states with the same parameters. -/
theorem statelessRequestsDependOnNoRegister : Obligations.StatelessRequestsDependOnNoRegister := by
  intro i s s' ha ha' hcfg hi
  have halike : AnswersAlike s.cfg i := by
    obtain ⟨c, n, p, rfl⟩ | ⟨on, rfl⟩ | ⟨pct, rfl⟩ | ⟨r, g, b, rfl⟩ := hi
    · exact build_answersAlike s.cfg c n p
    · exact power_answersAlike s.cfg on
    · exact bright_answersAlike s.cfg pct
    · exact broadcastColor_answersAlike s.cfg r g b
  obtain ⟨fs, r, hexec⟩ := halike
  exact ⟨_, _, fs, r, hexec s ha rfl, hexec s' ha' hcfg.symm, rfl, rfl⟩

end Sys2Proof.Machine
end

section
/-! The decoder and the encoder, row by row: what each selector reads and which frames a row matches; what the frames
of a chunk carry; which error a request answers; where a frame row completes. -/

namespace Sys2Proof.Machine

/-! ### What a selector reads (30_encoding.md R70, R71, R72, R79) -/

section Selectors

variable {q : Request}

theorem decodeRequest_of_build (h : q.op = 0x1) :
    decodeRequest q = .ok (.build q.cmd q.plen (lanesOf 17 q.pay)) := by simp [decodeRequest, h]

theorem decodeRequest_of_segclr (h : q.op = 0x2) : decodeRequest q = .ok .segclr := by simp [decodeRequest, h]

theorem decodeRequest_of_segadd (h : q.op = 0x3) : decodeRequest q = .ok (.segadd q.idx) := by
  simp [decodeRequest, h]

theorem decodeRequest_of_segrd (h : q.op = 0x4) : decodeRequest q = .ok .segrd := by simp [decodeRequest, h]

theorem decodeRequest_of_chunk (h : q.op = 0x5) :
    decodeRequest q = .ok (.chunk q.cmd q.hlen (lanesOf 14 q.hdr) q.elen q.maxc) := by simp [decodeRequest, h]

theorem beq_one_eq_getLsbD : ∀ b : BitVec 1, (b == 1#1) = b.getLsbD 0 := by decide

theorem decodeRequest_of_power (h : q.op = 0x8) : decodeRequest q = .ok (.power (q.on.getLsbD 0)) := by
  simp [decodeRequest, h, beq_one_eq_getLsbD]

theorem decodeRequest_of_bright (h : q.op = 0x9) : decodeRequest q = .ok (.bright q.pct) := by
  simp [decodeRequest, h]

theorem decodeRequest_of_color (h : q.op = 0xA) :
    decodeRequest q = .ok (.color q.r q.g q.b (q.segsel.getLsbD 0)) := by
  simp [decodeRequest, h, beq_one_eq_getLsbD]

theorem decodeRequest_of_reserved (h : q.op ∈ [0x0, 0x6, 0x7, 0xB, 0xC, 0xD, 0xE, 0xF]) :
    decodeRequest q = .error (.reservedSelector q.op) := by
  simp only [List.mem_cons, List.not_mem_nil, or_false] at h
  rcases h with h | h | h | h | h | h | h | h <;> simp [decodeRequest, h]

end Selectors

@[simp] theorem bitOf_getElem_zero : ∀ b : Bool, (bitOf b)[0] = b := by decide

/-- Settles O1: each selector reads back the signals its format names, lanes by `lanesOf_wireOf`. -/
theorem requestReadBackIsTheRequestAsked : Obligations.RequestReadBackIsTheRequestAsked := by
  intro i hi
  cases i with
  | build => simp [encode, decode, decodeRequest_of_build]
  | segclr => simp [encode, decode, decodeRequest_of_segclr]
  | segadd => simp [encode, decode, decodeRequest_of_segadd]
  | segrd => simp [encode, decode, decodeRequest_of_segrd]
  | chunk => simp [encode, decode, decodeRequest_of_chunk]
  | power => simp [encode, decode, decodeRequest_of_power]
  | bright => simp [encode, decode, decodeRequest_of_bright]
  | color => simp [encode, decode, decodeRequest_of_color]
  | frame | framePower | frameBright | frameColorAll | frameColorSeg | frameChunk => cases hi

/-- Settles O2: the equation of `decodeRequest` for each selector, and of a lane for each position. -/
theorem selectorReadsItsOwnSignals : Obligations.SelectorReadsItsOwnSignals := by
  intro q
  refine ⟨decodeRequest_of_build, decodeRequest_of_segclr, decodeRequest_of_segadd, decodeRequest_of_segrd,
    decodeRequest_of_chunk, decodeRequest_of_power, decodeRequest_of_bright, decodeRequest_of_color,
    decodeRequest_of_reserved, fun i => ?_, fun i => ?_⟩
  · rw [show 128 - 8 * i.val = 8 * (17 - 1 - i.val) by omega]
    exact lanesOf_getElem 17 q.pay i i.isLt
  · rw [show 104 - 8 * i.val = 8 * (14 - 1 - i.val) by omega]
    exact lanesOf_getElem 14 q.hdr i i.isLt

/-- Settles O47: a reserved selector does not decode, and the step that would take it refuses it. -/
theorem reservedSelectorIsRefused : Obligations.ReservedSelectorIsRefused :=
  fun _ _ _ ha hin hop => step_of_reserved ha hin (decodeRequest_of_reserved hop)

/-- Settles O3: closed words, evaluated. -/
theorem sampleWordsAreReadRight : Obligations.SampleWordsAreReadRight :=
  ⟨rfl, rfl, rfl, rfl, by decide +kernel, by decide +kernel, by decide +kernel⟩

/-! ### Which frames are read (30_encoding.md R80) -/

theorem frameOk_iff {f : Frame} : frameOk f = true ↔ f[0] = framePrefix ∧ xorAll f.toList = 0 := by
  simp [frameOk]

theorem decodeFrame_of_badPrefix {f : Frame} (h : f[0] ≠ framePrefix) : decodeFrame f = .error (.badPrefix f[0]) :=
  if_pos h

theorem decodeFrame_of_badChecksum {f : Frame} (h0 : f[0] = framePrefix) (hx : xorAll f.toList ≠ 0) :
    decodeFrame f = .error (.badChecksum (xorAll f.toList)) := by
  rw [decodeFrame, if_neg (not_not.2 h0), if_pos hx]

theorem decodeFrame_of_frameOk {f : Frame} (h : frameOk f = true) :
    decodeFrame f = .ok ((frameReadings f).headD (readFrame f)) := by
  obtain ⟨h0, hx⟩ := frameOk_iff.1 h
  rw [decodeFrame, if_neg (not_not.2 h0), if_neg (not_not.2 hx)]

/-- What the decoder accepts is well-formed. -/
theorem frameOk_of_decodeFrame {f : Frame} {i : Instr} (h : decodeFrame f = .ok i) : frameOk f = true := by
  by_cases h0 : f[0] = framePrefix
  · by_cases hx : xorAll f.toList = 0
    · exact frameOk_iff.2 ⟨h0, hx⟩
    · rw [decodeFrame_of_badChecksum h0 hx] at h
      cases h
  · rw [decodeFrame_of_badPrefix h0] at h
    cases h

/-- Settles O4: the three equations of `decodeFrame`. -/
theorem frameIsReadExactlyWhenWellFormed : Obligations.FrameIsReadExactlyWhenWellFormed := fun _ =>
  ⟨⟨fun ⟨_, hi⟩ => frameOk_iff.1 (frameOk_of_decodeFrame hi), fun h => ⟨_, decodeFrame_of_frameOk (frameOk_iff.2 h)⟩⟩,
    decodeFrame_of_badPrefix, decodeFrame_of_badChecksum⟩

/-! ### The fields of a frame (30_encoding.md R74, R77) -/

theorem framePayload_getElem (f : Frame) (i : Nat) (h : i < 17) : (framePayload f)[i] = f[i + 2] := by
  simp [framePayload]

theorem frameBody_getElem (f : Frame) (i : Nat) (h : i < 15) : (frameBody f)[i] = f[i + 4] := by
  simp [frameBody]

@[simp] theorem framePayload_sealFrame (c : Byte) (p : Vector Byte 17) : framePayload (sealFrame c p) = p :=
  Vector.ext fun i h => by rw [framePayload_getElem _ i h, sealFrame_getElem c p i h]

/-- A well-formed frame is the one assembled from its command byte and payload. -/
theorem sealFrame_framePayload {f : Frame} (h : frameOk f = true) : sealFrame f[1] (framePayload f) = f := by
  obtain ⟨h0, hx⟩ := frameOk_iff.1 h
  exact (eq_sealFrame h0 hx rfl fun i hi => (framePayload_getElem f i hi).symm).symm

/-- The first 19 bytes of a well-formed frame determine it. -/
theorem eq_of_first_bytes {f g : Frame} (hf : frameOk f = true) (hg : frameOk g = true)
    (h : ∀ i : Fin 19, f[i.val] = g[i.val]) : f = g := by
  obtain ⟨h0, hx⟩ := frameOk_iff.1 hf
  rw [← sealFrame_framePayload hg]
  exact eq_sealFrame h0 hx (h 1) fun i hi => by rw [framePayload_getElem g i hi]; exact h ⟨i + 2, by omega⟩

/-- The payload of row `FRAME_CHUNK`, byte by byte. -/
theorem chunkPayload_getElem (seq total : Byte) (body : Vector Byte 15) :
    (padPayload (chunkPayload seq total body))[0] = seq ∧ (padPayload (chunkPayload seq total body))[1] = total ∧
      ∀ i (h : i < 15), (padPayload (chunkPayload seq total body))[i + 2] = body[i] :=
  ⟨rfl, rfl, fun i h => by simp [padPayload_getElem, chunkPayload, h]⟩

theorem readFrame_sealFrame (c : Byte) (p : Vector Byte 17) : readFrame (sealFrame c p) = .frame c p := by
  simp [readFrame]

theorem readChunk_sealFrame (c seq total : Byte) (body : Vector Byte 15) :
    readChunk (sealFrame c (padPayload (chunkPayload seq total body))) = .frameChunk c seq total body := by
  obtain ⟨h0, h1, hbody⟩ := chunkPayload_getElem seq total body
  rw [readChunk, Instr.frameChunk.injEq]
  refine ⟨rfl, h0, h1, Vector.ext fun i hi => ?_⟩
  rw [frameBody_getElem _ i hi, ← hbody i hi]
  exact sealFrame_getElem _ _ (i + 2) (by omega)

theorem encode_readFrame {f : Frame} (h : frameOk f = true) : encode (readFrame f) = .frame f :=
  congrArg Encoding.frame (sealFrame_framePayload h)

theorem encode_readChunk {f : Frame} (h : frameOk f = true) : encode (readChunk f) = .frame f := by
  have hp : padPayload (chunkPayload f[2] f[3] (frameBody f)) = framePayload f := by
    obtain ⟨h0, h1, hbody⟩ := chunkPayload_getElem f[2] f[3] (frameBody f)
    refine Vector.ext fun i hi => ?_
    rw [framePayload_getElem f i hi]
    match i with
    | 0 => exact h0
    | 1 => exact h1
    | i + 2 => exact (hbody i (by omega)).trans (frameBody_getElem f i (by omega))
  rw [← encode_readFrame h]
  exact congrArg (fun p => Encoding.frame (sealFrame f[1] p)) hp

/-! ### Which frames a row matches (30_encoding.md R76, R82) -/

/-- A row with no fixed bit in the checksum byte matches exactly the frame `g`, where on each other byte its fixed bits
say that the byte is that of `g`. -/
theorem rowMatches_iff_eq {mask value : BitVec 160} {f g : Frame} (hf : frameOk f = true) (hg : frameOk g = true)
    (hlast : mask.extractLsb' 0 8 = 0 ∧ value.extractLsb' 0 8 = 0)
    (h : ∀ i : Fin 19, f[i.val] &&& mask.extractLsb' (8 * (19 - i.val)) 8 = value.extractLsb' (8 * (19 - i.val)) 8 ↔
      f[i.val] = g[i.val]) :
    rowMatches mask value f = true ↔ f = g := by
  have hiff : rowMatches mask value f = true ↔ ∀ i : Fin 19, f[i.val] = g[i.val] := by
    rw [rowMatches_iff, Fin.forall_fin_succ']
    simp [h, hlast]
  exact hiff.trans ⟨eq_of_first_bytes hf hg, fun heq _ => heq ▸ rfl⟩

/-- A payload byte of a frame, by its offset in the frame. -/
theorem sealFrame_getElem_of_le (c : Byte) (p : Vector Byte 17) (j : Nat) (hj : j < 20) (h2 : 2 ≤ j)
    (h19 : j < 19) :
    (sealFrame c p)[j] = p[j - 2] := by
  obtain ⟨i, rfl⟩ := Nat.exists_eq_add_of_le' h2
  exact sealFrame_getElem c p i (by omega)

/-- Bit 7 is a fixed 0: row `FRAME_COLOR_SEG` reads the other seven (30_encoding.md R76). -/
theorem and_bit7_eq_zero_iff : ∀ a : Byte, a &&& 128#8 = 0#8 ↔ a = (a.setWidth 7).setWidth 8 := by decide

/-- Bits 7 to 1 are fixed zeros: row `FRAME_POWER` reads the other one (30_encoding.md R76). -/
theorem and_notBit0_eq_zero_iff : ∀ a : Byte, a &&& 254#8 = 0#8 ↔ a = if a = 1#8 then 1#8 else 0#8 := by decide

theorem matchesPower_iff {f : Frame} (hf : frameOk f = true) :
    matchesPower f = true ↔ encode (.framePower (f[2] == 0x01)) = .frame f := by
  rw [matchesPower, encode, Encoding.frame.injEq, eq_comm (b := f)]
  refine rowMatches_iff_eq hf (frameOk_sealFrame _ _) (by decide) fun i => ?_
  fin_cases i <;> simp [sealFrame_getElem_of_le, padPayload_getElem, powerPayload, and_ff, and_notBit0_eq_zero_iff]

theorem matchesBright_iff {f : Frame} (hf : frameOk f = true) :
    matchesBright f = true ↔ encode (.frameBright f[2]) = .frame f := by
  rw [matchesBright, encode, Encoding.frame.injEq, eq_comm (b := f)]
  refine rowMatches_iff_eq hf (frameOk_sealFrame _ _) (by decide) fun i => ?_
  fin_cases i <;> simp [sealFrame_getElem_of_le, padPayload_getElem, brightPayload, and_ff]

theorem matchesColorAll_iff {f : Frame} (hf : frameOk f = true) :
    matchesColorAll f = true ↔ encode (.frameColorAll f[3] f[4] f[5]) = .frame f := by
  rw [matchesColorAll, encode, Encoding.frame.injEq, eq_comm (b := f)]
  refine rowMatches_iff_eq hf (frameOk_sealFrame _ _) (by decide) fun i => ?_
  fin_cases i <;> simp [sealFrame_getElem_of_le, padPayload_getElem, colorPayload, and_ff]

theorem matchesColorSeg_iff {f : Frame} (hf : frameOk f = true) :
    matchesColorSeg f = true ↔ encode (.frameColorSeg f[3] f[4] f[5] f[6] (f[7].setWidth 7)) = .frame f := by
  rw [matchesColorSeg, encode, Encoding.frame.injEq, eq_comm (b := f)]
  refine rowMatches_iff_eq hf (frameOk_sealFrame _ _) (by decide) fun i => ?_
  fin_cases i <;> simp [sealFrame_getElem_of_le, padPayload_getElem, colorPayload, and_ff, and_bit7_eq_zero_iff]

theorem matchesFrame_of_frameOk {f : Frame} (hf : frameOk f = true) : matchesFrame f = true :=
  sealFrame_framePayload hf ▸ matchesFrame_sealFrame f[1] (framePayload f)

/-! ### The readings of a well-formed frame (30_encoding.md R82) -/

theorem mem_specificReadings {f : Frame} {i : Instr} :
    i ∈ specificReadings f ↔
      matchesPower f = true ∧ i = .framePower (f[2] == 0x01) ∨ matchesBright f = true ∧ i = .frameBright f[2] ∨
      matchesColorAll f = true ∧ i = .frameColorAll f[3] f[4] f[5] ∨
      matchesColorSeg f = true ∧ i = .frameColorSeg f[3] f[4] f[5] f[6] (f[7].setWidth 7) := by
  simp [specificReadings, List.mem_ite_nil_right]

/-- `FRAME` and `FRAME_CHUNK` are both listed, in one order or the other; the first of them is well formed. -/
theorem generalReadings_cases {f : Frame} (hf : frameOk f = true) :
    generalReadings f = [readChunk f, readFrame f] ∧ (readChunk f).wellFormed = true ∨
      generalReadings f = [readFrame f, readChunk f] := by
  rw [generalReadings, if_pos (matchesFrame_of_frameOk hf)]
  by_cases h : f[1] = cmdEffect ∧ (readChunk f).wellFormed = true
  · exact .inl ⟨if_pos h, h.2⟩
  · exact .inr (if_neg h)

theorem mem_generalReadings {f : Frame} {i : Instr} (hf : frameOk f = true) :
    i ∈ generalReadings f ↔ i = readFrame f ∨ i = readChunk f := by
  obtain ⟨h, -⟩ | h := generalReadings_cases hf <;> rw [h]
  · simp [or_comm]
  · simp

/-- A reading of a well-formed frame is a row that encodes to it. -/
theorem encode_of_mem_frameReadings {f : Frame} {i : Instr} (hf : frameOk f = true) (h : i ∈ frameReadings f) :
    encode i = .frame f := by
  rw [frameReadings, List.mem_append, mem_specificReadings, mem_generalReadings hf] at h
  obtain (⟨hm, rfl⟩ | ⟨hm, rfl⟩ | ⟨hm, rfl⟩ | ⟨hm, rfl⟩) | rfl | rfl := h
  · exact (matchesPower_iff hf).1 hm
  · exact (matchesBright_iff hf).1 hm
  · exact (matchesColorAll_iff hf).1 hm
  · exact (matchesColorSeg_iff hf).1 hm
  · exact encode_readFrame hf
  · exact encode_readChunk hf

theorem frameOk_of_encode {i : Instr} {f : Frame} (h : encode i = .frame f) : frameOk f = true := by
  cases i with
  | build | segclr | segadd | segrd | chunk | power | bright | color => cases h
  | frame | framePower | frameBright | frameColorAll | frameColorSeg | frameChunk =>
    cases h
    exact frameOk_sealFrame _ _

/-- A row is among the readings of the frame it encodes to: its fields are read back from that frame. -/
theorem mem_frameReadings_of_encode {i : Instr} {f : Frame} (h : encode i = .frame f) : i ∈ frameReadings f := by
  have hf := frameOk_of_encode h
  rw [frameReadings, List.mem_append, mem_specificReadings, mem_generalReadings hf]
  cases i with
  | build | segclr | segadd | segrd | chunk | power | bright | color => cases h
  | frame command payload =>
    cases h
    exact .inr (.inl (readFrame_sealFrame _ _).symm)
  | frameChunk command seq total body =>
    cases h
    exact .inr (.inr (readChunk_sealFrame _ _ _ _).symm)
  | framePower on =>
    have hon : on = (f[2] == 0x01) := by
      cases h
      cases on <;> rfl
    exact .inl (.inl ⟨(matchesPower_iff hf).2 (hon ▸ h), by rw [← hon]⟩)
  | frameBright level =>
    have hlevel : f[2] = level := by
      cases h
      rfl
    subst hlevel
    exact .inl (.inr (.inl ⟨(matchesBright_iff hf).2 h, rfl⟩))
  | frameColorAll r g b =>
    obtain ⟨rfl, rfl, rfl⟩ : f[3] = r ∧ f[4] = g ∧ f[5] = b := by
      cases h
      exact ⟨rfl, rfl, rfl⟩
    exact .inl (.inr (.inr (.inl ⟨(matchesColorAll_iff hf).2 h, rfl⟩)))
  | frameColorSeg r g b low high =>
    obtain ⟨rfl, rfl, rfl, rfl, rfl⟩ : f[3] = r ∧ f[4] = g ∧ f[5] = b ∧ f[6] = low ∧ f[7].setWidth 7 = high := by
      cases h
      exact ⟨rfl, rfl, rfl, rfl, BitVec.setWidth_setWidth_of_le _ (by decide)⟩
    exact .inl (.inr (.inr (.inr ⟨(matchesColorSeg_iff hf).2 h, rfl⟩)))

/-- Settles O6: readings and rows that encode to the frame are the same, and the general readings are always there. -/
theorem frameRowMatchesItsOwnFrame : Obligations.FrameRowMatchesItsOwnFrame := by
  refine ⟨fun i f h => ⟨mem_frameReadings_of_encode h, frameOk_iff.1 (frameOk_of_encode h)⟩,
    fun i f => encode_of_mem_frameReadings, fun f hf => ⟨⟨framePayload f, ?_⟩, frameBody f, ?_⟩⟩
  · exact mem_frameReadings_of_encode (encode_readFrame hf)
  · exact mem_frameReadings_of_encode (encode_readChunk hf)

theorem wellFormed_of_mem_specificReadings {f : Frame} {i : Instr} (h : i ∈ specificReadings f) :
    i.wellFormed = true := by
  obtain ⟨-, rfl⟩ | ⟨-, rfl⟩ | ⟨-, rfl⟩ | ⟨-, rfl⟩ := mem_specificReadings.1 h <;> rfl

/-- The row that the decoder names is one of the readings, and is well formed: where a general row is named, the range
of its index and total was looked at first. -/
theorem headD_frameReadings_spec {f : Frame} (hf : frameOk f = true) :
    (frameReadings f).headD (readFrame f) ∈ frameReadings f ∧
      ((frameReadings f).headD (readFrame f)).wellFormed = true := by
  rw [frameReadings]
  cases hs : specificReadings f with
  | nil =>
    obtain ⟨h, hwf⟩ | h := generalReadings_cases hf <;> rw [h]
    · exact ⟨List.mem_cons_self, hwf⟩
    · exact ⟨List.mem_cons_self, rfl⟩
  | cons i l =>
    have hi : i ∈ specificReadings f := hs ▸ List.mem_cons_self
    exact ⟨List.mem_cons_self, wellFormed_of_mem_specificReadings hi⟩

/-- Settles O5: the row named is the first reading, and every reading encodes to the frame. -/
theorem frameReadThenWrittenIsTheFrame : Obligations.FrameReadThenWrittenIsTheFrame := by
  intro f i h
  have hf := frameOk_of_decodeFrame h
  rw [decodeFrame_of_frameOk hf] at h
  cases h
  obtain ⟨hmem, hwf⟩ := headD_frameReadings_spec hf
  exact ⟨encode_of_mem_frameReadings hf hmem, hwf⟩

/-! ### What the frames of `chunk` carry (42_chunker.md R145, R147) -/

/-- The header bytes and the indices of a chunk frame stand in front of its data. -/
theorem chunkFrame_toList {base k : Nat} {c total : Byte} {h d : List Byte} (hlen : h.length + d.length ≤ 15) :
    ∃ tail, (sealFrame c (padPayload (chunkFramePayload base k total h d))).toList =
      [framePrefix, c, BitVec.ofNat 8 (base + k), total] ++ h ++ tail := by
  have hfits : (chunkFramePayload base k total h d).length ≤ 17 := by
    simp only [chunkFramePayload, List.length_append, List.length_cons, List.length_nil]
    omega
  rw [sealFrame_toList, padPayload_of_le hfits]
  exact ⟨_, by simp only [chunkFramePayload, List.cons_append, List.nil_append, List.append_assoc]; rfl⟩

theorem seqBaseNat_le_one (base : SeqBase) : seqBaseNat base ≤ 1 := by
  cases base <;> decide

theorem chunkSlice_length_le {h p : List Byte} (k : Nat) (hh : h.length ≤ 14) :
    h.length + (slice p (k * (15 - h.length)) (min ((k + 1) * (15 - h.length)) p.length)).length ≤ 15 := by
  simp only [slice, List.length_take, List.length_drop, Nat.add_mul]
  omega

/-- Settles O30: `chunk` as an equation, its indices below 256, and the layout of one of its frames. -/
theorem chunkFramesCarryAscendingIndices : Obligations.ChunkFramesCarryAscendingIndices := by
  intro base c h p frames hc
  obtain ⟨hh, hT⟩ := chunkFrames_defined hc
  rw [chunkFrames_eq _ c h p hh hT] at hc
  cases hc
  rw [List.length_map, List.length_range]
  refine ⟨rfl, hT, fun k f hk => ?_⟩
  rw [List.getElem?_map, Option.map_eq_some_iff] at hk
  obtain ⟨k', hk', rfl⟩ := hk
  obtain ⟨hlt, rfl⟩ : k < ceilDiv p.length (15 - h.length) ∧ k = k' := by simpa [List.getElem?_eq_some_iff] using hk'
  have hbase := seqBaseNat_le_one base
  refine ⟨rfl, rfl, Nat.mod_eq_of_lt (by omega), Nat.mod_eq_of_lt (by omega), ?_, sealFrame_xorAll _ _⟩
  obtain ⟨tail, htail⟩ := chunkFrame_toList (base := seqBaseNat base) (k := k) (c := c)
    (total := BitVec.ofNat 8 (ceilDiv p.length (15 - h.length))) (chunkSlice_length_le (p := p) k hh)
  rw [htail]
  simp [slice]

/-! ### Which error a request answers (30_encoding.md R73, 60_exceptions.md R190) -/

/-- The status of the response to a request taken in state `s` (`exec_request_answers`); a frame row is no request and
its value here has no meaning. -/
def requestStatus (s : State) : Instr → Status
  | .build _ n _ => if 17 < n.toNat then .invalidPayloadLength else .ok
  | .segclr => .ok
  | .segadd x => if x.toInt < 0 ∨ 15 ≤ x.toInt then .invalidSegmentIndex else .ok
  | .segrd => if s.segErr then .invalidSegmentIndex else .ok
  | .chunk _ n _ e m =>
    if e.toNat = 0 then .ok
    else if 14 < n.toNat then .invalidPayloadLength
    else if m.toNat < ceilDiv e.toNat (15 - n.toNat) then .payloadTooLarge
    else .ok
  | .power _ => .ok
  | .bright p => if p.toInt < 0 ∨ 100 < p.toInt then .invalidValueRange else .ok
  | .color _ _ _ segsel => if segsel then (if s.segErr then .invalidSegmentIndex else .ok) else .ok
  | .frame _ _ => .ok
  | .framePower _ => .ok
  | .frameBright _ => .ok
  | .frameColorAll _ _ _ => .ok
  | .frameColorSeg _ _ _ _ _ => .ok
  | .frameChunk _ _ _ _ => .ok

/-- Between `s` and `t` one response was given, with the status `e`. -/
def Answers (s : State) (e : Status) (t : State) : Prop :=
  ∃ r : Response, t.rsps = s.rsps ++ [r] ∧ r.status = e

theorem answers_respond {s u : State} {r : Response} {e : Status} (hr : r.status = e) (hu : u.rsps = s.rsps) :
    Answers s e (respond r u) :=
  ⟨r, by rw [respond_rsps, hu], hr⟩

theorem answers_respondOk {s u : State} (hu : u.rsps = s.rsps) : Answers s .ok (respondOk u) :=
  answers_respond (r := okResponse) rfl hu

theorem answers_raise {s u : State} (e : Status) (hu : u.rsps = s.rsps) : Answers s e (raise e u) :=
  answers_respond (r := errorResponse e) rfl hu

/-- FrameBuilder's answer to a payload that fits. -/
theorem answers_emitBuilt {c : Byte} {p : List Byte} (s : State) (h : p.length ≤ 17) :
    Answers s .ok (emitBuilt c p s) := by
  rw [emitBuilt_of_le s h]
  exact answers_respondOk rfl

/-- Every request taken is answered with its status. -/
theorem exec_request_answers {i : Instr} {s : State} (hi : i.isRequest = true) (ha : s.chActive = false) :
    ∃ t, exec i s = .next t ∧ Answers s (requestStatus s i) t := by
  cases i with
  | build cmd plen pay =>
    refine ⟨_, whenReady_of_ready _ ha, ?_⟩
    rw [requestStatus]
    split_ifs
    · exact answers_raise _ rfl
    · exact answers_emitBuilt s (by simp [payloadLanes])
  | segclr => exact ⟨_, whenReady_of_ready _ ha, answers_respondOk rfl⟩
  | segadd idx =>
    refine ⟨_, whenReady_of_ready _ ha, ?_⟩
    rw [requestStatus]
    obtain ⟨hr, hb⟩ | ⟨hr, hb⟩ | ⟨hr, hb⟩ := segBit_cases (signed idx) <;> rw [hb]
    · rw [if_pos hr]
      exact answers_raise _ rfl
    · rw [if_neg (by simp only [signed] at hr; omega)]
      exact answers_respondOk rfl
    · rw [if_neg (by simp only [signed] at hr; omega)]
      exact answers_respondOk rfl
  | segrd =>
    refine ⟨_, whenReady_of_ready _ ha, ?_⟩
    rw [requestStatus]
    split_ifs
    · exact answers_raise _ rfl
    · exact answers_respond rfl rfl
  | chunk cmd hlen hdr elen maxc =>
    refine ⟨_, whenReady_of_ready _ ha, ?_⟩
    rw [requestStatus]
    split_ifs
    · exact answers_respondOk rfl
    · exact answers_raise _ rfl
    · exact answers_raise _ rfl
    · exact answers_respond rfl rfl
  | power on => exact ⟨_, whenReady_of_ready _ ha, answers_emitBuilt s (by simp [powerPayload])⟩
  | bright pct =>
    refine ⟨_, whenReady_of_ready _ ha, ?_⟩
    rw [requestStatus]
    split_ifs
    · exact answers_raise _ rfl
    · exact answers_emitBuilt s (by simp [brightPayload])
  | color r g b segsel =>
    refine ⟨_, whenReady_of_ready _ ha, ?_⟩
    rw [requestStatus]
    split_ifs
    · exact answers_raise _ rfl
    · exact answers_emitBuilt s (by simp [colorPayload])
    · exact answers_emitBuilt s (by simp [colorPayload])
  | frame | framePower | frameBright | frameColorAll | frameColorSeg | frameChunk => cases hi

theorem fourteen_lt_toNat_iff (n : BitVec 4) : 14 < n.toNat ↔ n = 15#4 := by
  have := n.isLt
  rw [← BitVec.toNat_inj, BitVec.toNat_ofNat]
  omega

section StatusTable

variable (s : State) (i : Instr)

theorem requestStatus_eq_invalidPayloadLength_iff : requestStatus s i = .invalidPayloadLength ↔
    (∃ c n p, i = .build c n p ∧ 17 < n.toNat) ∨ (∃ c n h e m, i = .chunk c n h e m ∧ 0 < e.toNat ∧ n = 15) := by
  cases i <;> simp [requestStatus, ite_eq_iff, -ite_eq_left_iff, fourteen_lt_toNat_iff, Nat.pos_iff_ne_zero, and_comm]

theorem requestStatus_eq_invalidValueRange_iff :
    requestStatus s i = .invalidValueRange ↔ ∃ p, i = .bright p ∧ (p.toInt < 0 ∨ 100 < p.toInt) := by
  cases i <;> simp [requestStatus, ite_eq_iff, -ite_eq_left_iff]

theorem requestStatus_eq_invalidSegmentIndex_iff : requestStatus s i = .invalidSegmentIndex ↔
    (∃ x, i = .segadd x ∧ (x.toInt < 0 ∨ 15 ≤ x.toInt)) ∨ (i = .segrd ∧ s.segErr = true) ∨
      (∃ a b c, i = .color a b c true ∧ s.segErr = true) := by
  cases i <;> simp [requestStatus, ite_eq_iff, -ite_eq_left_iff]

theorem requestStatus_eq_payloadTooLarge_iff : requestStatus s i = .payloadTooLarge ↔
    ∃ c n h e m, i = .chunk c n h e m ∧ 0 < e.toNat ∧ n.toNat ≤ 14 ∧ m.toNat < ceilDiv e.toNat (15 - n.toNat) := by
  cases i <;> simp [requestStatus, ite_eq_iff, -ite_eq_left_iff]

theorem requestStatus_ne_unreachable :
    requestStatus s i ≠ .unknownSceneName ∧ requestStatus s i ≠ .unknownMusicMode := by
  cases i <;> simp [requestStatus, ite_eq_iff, -ite_eq_left_iff]

end StatusTable

/-- Settles O40: the response carries `requestStatus`, and the table is read off it error by error. -/
theorem errorsAreExactlyTheTabledOnes : Obligations.ErrorsAreExactlyTheTabledOnes := by
  refine ⟨fun i s hi ha => ?_, rfl⟩
  obtain ⟨t, he, r, hr, hstatus⟩ := exec_request_answers hi ha
  refine ⟨t, r, he, hr, ?_⟩
  rw [hstatus]
  exact ⟨requestStatus_eq_invalidPayloadLength_iff s i, requestStatus_eq_invalidValueRange_iff s i,
    requestStatus_eq_invalidSegmentIndex_iff s i, requestStatus_eq_payloadTooLarge_iff s i,
    requestStatus_ne_unreachable s i⟩

/-! ### The frame rows where their frame is put out (30_encoding.md R75, R77, R82) -/

/-- A frame row completes where the request offered delegates its frame to FrameBuilder. -/
theorem frameRow_completes {s : State} {q : Request} {rest : List Input} {row i : Instr} {c : Byte} {p : List Byte}
    (ha : s.chActive = false) (hin : s.inputs = .request q :: rest) (hd : decodeRequest q = .ok i)
    (hi : exec i (withInputs rest s) = whenReady (withInputs rest s) (emitBuilt c p (withInputs rest s)))
    (hp : p.length ≤ 17) (hrow : encode row = .frame (sealFrame c (padPayload p))) :
    ∃ f, encode row = .frame f ∧ exec row s =
      .next { s with inputs := rest, out := s.out ++ [f], rsps := s.rsps ++ [⟨.ok, 0x00, 0x00, 0x00⟩] } := by
  have hstep : step s = .next (respondOk (emit (sealFrame c (padPayload p)) (withInputs rest s))) := by
    rw [step_of_taken ha hin hd, hi, whenReady_of_ready (s := withInputs rest s) _ ha, emitBuilt_of_le _ hp]
  refine ⟨_, hrow, ?_⟩
  rw [exec_eq_takeFrame s hrow]
  exact takeFrame_iff.2 ⟨hstep, rfl⟩

theorem padPayload_vector_toList (p : Vector Byte 17) : padPayload p.toList = p :=
  Vector.toList_inj.1 (by simp)

theorem payloadLanes_all (p : Vector Byte 17) : payloadLanes 17 p = p.toList :=
  List.take_of_length_le (by simp)

/-- BRIGHT of a percent in range delegates the frame of its level (43_command_formatters.md R172). -/
theorem execBright_of_inRange {p lv : Byte} {n : Nat} {s : State} (hn : p.toInt = n) (h100 : n ≤ 100)
    (hlv : lv.toNat = level s.cfg.roundMode n) :
    execBright p s = whenReady s (emitBuilt cmdBright (brightPayload lv) s) := by
  have hlevel : BitVec.ofNat 8 (level s.cfg.roundMode (signed p).toNat) = lv := by
    rw [signed, hn, Int.toNat_natCast, ← hlv, BitVec.ofNat_toNat, BitVec.setWidth_eq]
  rw [execBright, if_neg (by simp only [signed]; omega), hlevel]

/-- Settles O48: each of the five requests delegates the payload of its frame row to FrameBuilder. -/
theorem requestFrameRowsRunTheirProducer : Obligations.RequestFrameRowsRunTheirProducer := by
  intro s q rest ha hin
  refine ⟨fun c p hd => ?_, fun on hd => ?_, fun p lv n hd hn h100 hlv => ?_, fun r g b hd => ?_,
    fun r g b l h hd herr hl hh => ?_⟩
  · refine frameRow_completes (c := c) (p := p.toList) ha hin hd ?_ (by simp) ?_
    · rw [← payloadLanes_all p]
      rfl
    · rw [padPayload_vector_toList]
      rfl
  · exact frameRow_completes (p := powerPayload on) ha hin hd rfl (by simp [powerPayload]) rfl
  · exact frameRow_completes ha hin hd (execBright_of_inRange (s := withInputs rest s) hn h100 hlv)
      (by simp [brightPayload]) rfl
  · exact frameRow_completes (p := colorPayload modeAll r g b maskAllLow maskAllHigh) ha hin hd rfl
      (by simp [colorPayload]) rfl
  · refine frameRow_completes (c := cmdColor) (p := colorPayload modeSegment r g b l (h.setWidth 8)) ha hin hd ?_
      (by simp [colorPayload]) rfl
    simp [exec, execColor, herr, hl, hh]

/-- Row `FRAME_CHUNK` carries its padding in the body; FrameBuilder pads the bare data to the same payload. -/
theorem padPayload_chunk (x y : Byte) (d : List Byte) (body : Vector Byte 15)
    (h : body.toList = (d ++ List.replicate 15 0x00).take 15) :
    padPayload (chunkPayload x y body) = padPayload ([x, y] ++ d) := by
  have hbody : (d ++ List.replicate 17 0#8).take 15 = body.toList := by
    rw [h, List.take_append, List.take_append, List.take_replicate, List.take_replicate]
    congr 2
    omega
  apply Vector.toList_inj.1
  rw [padPayload_of_le (by simp [chunkPayload]), padPayload_toList, List.append_assoc, List.take_append]
  simp [chunkPayload, hbody, -List.reduceReplicate]

/-- The frame an undisturbed step of an active sequence puts out, and the frame number after it. -/
theorem step_puts_out_sequencerPayload {s : State} (ha : s.chActive = true) (hinv : SequencerInv s)
    (hq : undisturbed 1 s.inputs = true) :
    ∃ t, step s = .next t ∧ t.out = s.out ++ [sealFrame s.chCmd (padPayload (sequencerPayload s))] ∧
      t.chSeq.toNat = s.chSeq.toNat + 1 := by
  have hready : SequencerReady (withInputs (eventsAfter 1 s.inputs) s) :=
    sequencerReady_of_inv ha (hinv.congr (sameSequencer_refl s))
  refine ⟨_, (step_of_active ha hq).trans (sequencerEmit_of_ready hready), ?_, ?_⟩ <;> rw [advanceSequencer_eq]
  · rfl
  · exact chSeq_succ_toNat hinv.seq_lt

/-- Settles O49: the row's frame is the one the emission puts out. -/
theorem chunkFrameRowRunsTheEmission : Obligations.ChunkFrameRowRunsTheEmission := by
  intro s seq body ha hinv hq hseq hbody
  have hindex : BitVec.ofNat 8 (seqBaseNat s.cfg.seqBase + s.chSeq.toNat) = seq := by
    rw [← hseq, BitVec.ofNat_toNat, BitVec.setWidth_eq]
  have hpayload : padPayload (sequencerPayload s) = padPayload (chunkPayload seq s.chTotal body) := by
    rw [padPayload_chunk _ _ _ body hbody, sequencerPayload, chunkFramePayload, hindex, List.append_assoc]
  obtain ⟨t, hstep, hout, hnumber⟩ := step_puts_out_sequencerPayload ha hinv hq
  rw [hpayload] at hout
  exact ⟨_, t, rfl, takeFrame_iff.2 ⟨hstep, hout⟩, hstep, hout, hnumber⟩

end Sys2Proof.Machine
end

section
/-! The checksum as the parity of its bytes, whatever their order, and the frames of `build` and `BUILD`
(40_frame_assembly.md). -/

namespace Sys2Proof.Machine

/-! ### The checksum tree (40_frame_assembly.md R100, R101) -/

/-- One level of the tree keeps the running XOR. -/
@[simp] theorem xorAll_xorLevel (b : List Byte) : xorAll (xorLevel b) = xorAll b := by
  fun_induction xorLevel b with
  | case1 x y rest ih => simp [ih, BitVec.xor_assoc]
  | case2 x => rfl
  | case3 => rfl

/-- One level of the tree halves the number of bytes, an odd last byte counted in. -/
@[simp] theorem xorLevel_length (b : List Byte) : (xorLevel b).length = (b.length + 1) / 2 := by
  fun_induction xorLevel b with
  | case1 x y rest ih => simp only [List.length_cons, ih]; omega
  | case2 x => simp
  | case3 => rfl

theorem headD_eq_xorAll {b : List Byte} (h : b.length ≤ 1) : b.headD 0 = xorAll b := by
  match b with
  | [] => rfl
  | [x] => simp

/-- Five levels leave at most one of 32 bytes. -/
theorem xorTree_eq_xorAll {b : List Byte} (h : b.length ≤ 32) : xorTree b = xorAll b := by
  rw [xorTree, headD_eq_xorAll (by simp only [xorLevel_length]; omega)]
  simp only [xorAll_xorLevel]

/-- The running XOR does not depend on the order of the bytes. -/
theorem xorAll_perm {b c : List Byte} (h : c.Perm b) : xorAll c = xorAll b := h.foldl_op_eq

/-- Settles O9: the five levels keep the running XOR, which is the same for every order and every grouping. -/
theorem checksumTreeIsRunningXor : Obligations.ChecksumTreeIsRunningXor := by
  refine ⟨fun b hb => ⟨xorTree_eq_xorAll (by omega), fun c hc => ?_⟩, xorAll_append⟩
  rw [xorTree_eq_xorAll (by rw [hc.length_eq]; omega), xorAll_perm hc]

/-! ### Its bits, and a change of one byte (40_frame_assembly.md R102, R111) -/

/-- Each bit of the running XOR is the parity of that bit over the bytes. -/
theorem xorAll_getLsbD (b : List Byte) (j : Nat) :
    (xorAll b).getLsbD j = true ↔ (b.countP fun x => x.getLsbD j) % 2 = 1 := by
  induction b with
  | nil => simp
  | cons x b ih =>
    rw [xorAll_cons, BitVec.getLsbD_xor, List.countP_cons]
    cases x.getLsbD j with
    | false => simpa using ih
    | true =>
      simp only [Bool.true_xor, Bool.not_eq_true', ← Bool.not_eq_true, ih, if_true]
      omega

/-- Settles O10: `xorAll_getLsbD`, for 19 bytes. -/
theorem checksumBitIsParityOfThatBit : Obligations.ChecksumBitIsParityOfThatBit :=
  fun b _ j _ => xorAll_getLsbD b j

/-- A change of one byte by `d` changes the running XOR by `d`. -/
theorem xorAll_set {b : List Byte} {i : Nat} {x : Byte} (d : Byte) (h : b[i]? = some x) :
    xorAll (b.set i (x ^^^ d)) = xorAll b ^^^ d := by
  induction b generalizing i with
  | nil => simp at h
  | cons y b ih =>
    cases i with
    | zero =>
      obtain rfl : y = x := by simpa using h
      rw [List.set_cons_zero, xorAll_cons, xorAll_cons, BitVec.xor_assoc, BitVec.xor_comm d, BitVec.xor_assoc]
    | succ i => rw [List.set_cons_succ, xorAll_cons, xorAll_cons, ih (by simpa using h), BitVec.xor_assoc]

/-- Two frames that agree but for one byte, with the same running XOR, agree in that byte too. -/
theorem byte_eq_of_xorAll_eq {f g : Frame} (j : Fin 20) (hx : xorAll f.toList = xorAll g.toList)
    (h : ∀ k : Fin 20, k ≠ j → f[k] = g[k]) : f[j] = g[j] := by
  have hset : f.toList = g.toList.set j.val (g[j] ^^^ (g[j] ^^^ f[j])) := by
    refine List.ext_getElem (by simp) fun k hk _ => ?_
    rw [List.getElem_set]
    split_ifs with hjk
    · subst hjk
      simp
    · simpa using h ⟨k, by simpa using hk⟩ (Fin.ne_of_val_ne (Ne.symm hjk))
  rw [hset, xorAll_set _ (by simp)] at hx
  have hd : g[j] ^^^ f[j] = 0#8 := by simpa using hx
  exact (BitVec.xor_eq_zero_iff.1 hd).symm

/-- Settles O14: `xorAll_set`, and with it that frames cannot differ in one byte alone. -/
theorem oneChangedByteMovesTheChecksum : Obligations.OneChangedByteMovesTheChecksum := by
  refine ⟨fun b i d x _ _ _ _ hx => xorAll_set d hx, fun f g j hf hg hne h hlast => hne ?_⟩
  have hothers : ∀ k : Fin 20, k ≠ j.castSucc → f[k] = g[k] :=
    Fin.forall_fin_succ'.2 ⟨fun k hk => h k fun hkj => hk (congrArg Fin.castSucc hkj), fun _ => hlast⟩
  exact byte_eq_of_xorAll_eq j.castSucc (hf.trans hg.symm) hothers

/-! ### The frames of `build` (40_frame_assembly.md R105, R106, R110) -/

/-- The 20 bytes of a frame whose payload fits. -/
theorem sealFrame_padPayload_toList (c : Byte) {s : List Byte} (h : s.length ≤ 17) :
    (sealFrame c (padPayload s)).toList =
      [0x33, c] ++ s ++ List.replicate (17 - s.length) 0x00 ++ [xorAll ([0x33, c] ++ s)] := by
  rw [sealFrame_toList, padPayload_of_le h]
  simp

/-- Zero bytes on the right of a payload that fits are its padding. -/
theorem padPayload_append_zeros {s : List Byte} {m : Nat} (h : s.length + m ≤ 17) :
    padPayload (s ++ List.replicate m 0x00) = padPayload s := by
  apply Vector.toList_inj.1
  rw [BitVec.ofNat_eq_ofNat, padPayload_of_le (by simpa using h), padPayload_of_le (by omega), List.append_assoc,
    List.replicate_append_replicate, List.length_append, List.length_replicate,
    show m + (17 - (s.length + m)) = 17 - s.length by omega]

/-- Settles O12: zeros leave the running XOR, and `build` pads with them anyway. -/
theorem paddingChangesNothing : Obligations.PaddingChangesNothing := by
  refine fun c s => ⟨fun n => ?_, fun m h => ?_⟩
  · have hzeros : xorAll (List.replicate n 0x00) = 0#8 := xorAll_zeros n
    rw [xorAll_append, hzeros, BitVec.xor_zero]
  · rw [build_of_le (by omega), build_of_le (by simpa using h), padPayload_append_zeros h]

/-- A frame determines its command and its payload. -/
theorem sealFrame_inj {c d : Byte} {p q : Vector Byte 17} : sealFrame c p = sealFrame d q ↔ c = d ∧ p = q := by
  refine ⟨fun h => ⟨?_, ?_⟩, fun ⟨hc, hp⟩ => by rw [hc, hp]⟩
  · simpa using congrArg (fun f : Frame => f[1]) h
  · simpa using congrArg framePayload h

/-- Two payloads that fit give the same frame exactly for the same command and the same padded payload. -/
theorem build_eq_build_iff {c d : Byte} {s t : List Byte} (hs : s.length ≤ 17) (ht : t.length ≤ 17) :
    build c s = build d t ↔ c = d ∧ padPayload s = padPayload t := by
  rw [build_of_le hs, build_of_le ht, Option.some_inj, sealFrame_inj]

/-- Settles O13: `build_eq_build_iff`, and `eq_of_first_bytes` for byte 19. -/
theorem frameDeterminesCommandAndPayload : Obligations.FrameDeterminesCommandAndPayload := by
  refine ⟨fun c s t hs ht => ?_, fun c d s t hs ht hcd h => hcd ((build_eq_build_iff hs ht).1 h).1,
    fun f g => eq_of_first_bytes⟩
  rw [build_eq_build_iff hs ht, eq_self, true_and, ← Vector.toList_inj, padPayload_of_le hs, padPayload_of_le ht]
  rfl

/-! ### `BUILD` (40_frame_assembly.md R103, R104, R105, R109) -/

/-- BUILD of a payload that fits. -/
theorem exec_build_of_le (c : Byte) {n : BitVec 5} (p : Vector Byte 17) {s : State} (ha : s.chActive = false)
    (h : n.toNat ≤ 17) :
    exec (.build c n p) s = .next (respondOk (emit (sealFrame c (padPayload (payloadLanes n p))) s)) := by
  rw [exec, execBuild, if_neg (by simpa using h), whenReady_of_ready _ ha, emitBuilt_of_le s (by simp [payloadLanes])]

/-- BUILD of a length past the lanes. -/
theorem exec_build_of_gt (c : Byte) {n : BitVec 5} (p : Vector Byte 17) {s : State} (ha : s.chActive = false)
    (h : 17 < n.toNat) : exec (.build c n p) s = .next (raise .invalidPayloadLength s) := by
  rw [exec, execBuild, if_pos h, whenReady_of_ready _ ha]

theorem payloadLanes_length {n : BitVec 5} (p : Vector Byte 17) (h : n.toNat ≤ 17) :
    (payloadLanes n p).length = n.toNat := by
  simpa [payloadLanes] using h

/-- Settles O11: the layout of the frame byte by byte, and `exec_build_of_le`. -/
theorem buildLaysOutTheFrame : Obligations.BuildLaysOutTheFrame := by
  refine fun c s => ⟨fun h => ?_, build_of_gt, fun n p u hn ha => ?_⟩
  · refine ⟨_, build_of_le h, sealFrame_padPayload_toList c h, sealFrame_xorAll _ _, rfl, rfl, fun i => ?_⟩
    have hbyte : (sealFrame c (padPayload s))[2 + i.val] = s.getD i.val 0#8 := by
      simp only [Nat.add_comm 2 i.val]
      rw [sealFrame_getElem _ _ _ i.isLt, padPayload_getElem _ _ i.isLt]
    rw [hbyte]
    split_ifs with hi
    · exact List.getD_eq_getElem _ _ hi
    · exact List.getD_eq_default _ _ (by omega)
  · have hfits : (payloadLanes n p).length ≤ 17 := by rwa [payloadLanes_length p hn]
    exact ⟨_, _, build_of_le hfits, exec_build_of_le c p ha hn, rfl⟩

/-- Settles O15: the two outcomes of BUILD, and the layout of the frame it emits. -/
theorem buildEmitsItsFrameOrFailsWhole : Obligations.BuildEmitsItsFrameOrFailsWhole := by
  refine fun c n p s ha => ⟨⟨_, rfl, rfl⟩, fun h => ⟨_, ?_, exec_build_of_le c p ha h⟩,
    fun h => exec_build_of_gt c p ha h⟩
  have hlen := payloadLanes_length p h
  rw [sealFrame_padPayload_toList c (by omega), hlen]
  rfl

/-- Lanes that agree below `n` are the same payload. -/
theorem payloadLanes_congr {n : BitVec 5} {p q : Vector Byte 17} (h : ∀ i : Fin 17, i.val < n.toNat → p[i] = q[i]) :
    payloadLanes n p = payloadLanes n q := by
  refine List.ext_getElem (by simp [payloadLanes]) fun i hi _ => ?_
  obtain ⟨hn, h17⟩ : i < n.toNat ∧ i < 17 := by simpa [payloadLanes] using hi
  simpa [payloadLanes] using h ⟨i, h17⟩ hn

/-- Settles O16: past 17 BUILD reads no lane, and up to 17 only those of `payloadLanes`. -/
theorem buildIgnoresLanesAbovePlen : Obligations.BuildIgnoresLanesAbovePlen := by
  intro c n p q s h
  rw [exec, exec, execBuild, execBuild]
  split_ifs with hn
  · rfl
  · rw [payloadLanes_congr (h (by simpa using hn))]

end Sys2Proof.Machine
end

section
/-! The segment mask: what SEGCLR, SEGADD and SEGRD answer, that a sequence of them computes `seg_encode`, and what the
bits of `seg_encode` are (41_segment_mask.md). -/

namespace Sys2Proof.Machine

/-! ### The bit of an index (41_segment_mask.md R120) -/

/-- Indices 0 to 7 have their bit in the low byte. -/
theorem segBit_low {i : Nat} (h : i ≤ 7) : segBit i = some ((1 : Byte) <<< i, 0#8) := by
  obtain ⟨hi, -⟩ | ⟨-, he⟩ | ⟨hi, -⟩ := segBit_cases i
  · omega
  · exact he
  · omega

/-- Indices 8 to 14 have their bit in the high byte. -/
theorem segBit_high {i : Nat} (h8 : 8 ≤ i) (h14 : i ≤ 14) : segBit i = some (0#8, (1 : Byte) <<< (i - 8)) := by
  obtain ⟨hi, -⟩ | ⟨hi, -⟩ | ⟨-, he⟩ := segBit_cases i
  · omega
  · omega
  · exact he

theorem segBit_eq_none_iff {i : Int} : segBit i = none ↔ i < 0 ∨ 15 ≤ i := ⟨segBit_eq_none, fun h => if_pos h⟩

/-! ### The three operations (41_segment_mask.md R121, R122, R123) -/

section Requests

variable {s : State}

theorem exec_segclr (ha : s.chActive = false) :
    exec .segclr s = .next (respondOk (clearSegErr (writeMask 0x00 0x00 s))) :=
  whenReady_of_ready _ ha

theorem exec_segadd_of_some {idx : Byte} {p : Byte × Byte} (ha : s.chActive = false) (h : segBit idx.toInt = some p) :
    exec (.segadd idx) s = .next (respondOk (writeMask (s.segLow ^^^ p.1) (s.segHigh ^^^ p.2) s)) := by
  rw [exec, execSegadd, whenReady_of_ready _ ha, h]

theorem exec_segadd_of_none {idx : Byte} (ha : s.chActive = false) (h : segBit idx.toInt = none) :
    exec (.segadd idx) s = .next (raise .invalidSegmentIndex (setSegErr s)) := by
  rw [exec, execSegadd, whenReady_of_ready _ ha, h]

theorem exec_segrd_of_clear (ha : s.chActive = false) (he : s.segErr = false) :
    exec .segrd s = .next (respond ⟨.ok, s.segLow, s.segHigh, 0x00⟩ s) := by
  simp [exec, execSegrd, whenReady_of_ready _ ha, he]

theorem exec_segrd_of_flagged (ha : s.chActive = false) (he : s.segErr = true) :
    exec .segrd s = .next (raise .invalidSegmentIndex s) := by
  simp [exec, execSegrd, whenReady_of_ready _ ha, he]

end Requests

/-- Settles O17: `exec_segclr`. -/
theorem segclrStartsAnEmptyList : Obligations.SegclrStartsAnEmptyList := fun _ ha => ⟨⟨_, rfl, rfl⟩, exec_segclr ha⟩

/-- Settles O18: the bit of an index in each range, toggled by `exec_segadd_of_some`; without a bit, the flag. -/
theorem segaddTogglesOneBitOrSetsTheFlag : Obligations.SegaddTogglesOneBitOrSetsTheFlag := by
  refine fun idx s ha => ⟨⟨_, rfl, rfl⟩, fun i hi h7 => ?_, fun i hi h8 h14 => ?_, fun hbad => ?_⟩
  · rw [exec_segadd_of_some ha (hi ▸ segBit_low h7), BitVec.xor_zero]
    rfl
  · rw [exec_segadd_of_some ha (hi ▸ segBit_high h8 h14), BitVec.xor_zero]
    rfl
  · exact exec_segadd_of_none ha (segBit_eq_none_iff.2 hbad)

/-- Settles O19: SEGRD with the flag clear, and with it set. -/
theorem segrdReturnsTheMaskUnlessFlagged : Obligations.SegrdReturnsTheMaskUnlessFlagged :=
  fun _ ha => ⟨⟨_, rfl, rfl⟩, exec_segrd_of_clear ha, exec_segrd_of_flagged ha⟩

/-! ### A sequence of them (41_segment_mask.md R124) -/

/-- The value of `seg_encode` that the segment registers stand for: the error while `SEG_ERR = 1`, else the mask. -/
def segAccumulator (s : State) : Option (Byte × Byte) :=
  if s.segErr then none else some (s.segLow, s.segHigh)

/-- `n` requests were answered, without a frame, and the host is not held. -/
structure AnswersSilently (n : Nat) (s t : State) : Prop where
  ready : t.chActive = false
  out : t.out = s.out
  rsps : t.rsps.length = s.rsps.length + n

theorem AnswersSilently.trans {m n : Nat} {s t u : State} (h : AnswersSilently m s t) (h' : AnswersSilently n t u) :
    AnswersSilently (m + n) s u :=
  ⟨h'.ready, h'.out.trans h.out, by rw [h'.rsps, h.rsps, Nat.add_assoc]⟩

theorem AnswersSilently.respond {s u : State} (r : Response) (ha : u.chActive = false) (ho : u.out = s.out)
    (hr : u.rsps = s.rsps) : AnswersSilently 1 s (respond r u) :=
  ⟨ha, ho, by simp [hr]⟩

/-- SEGADD on the registers is `segJoin` on the value they stand for. -/
theorem exec_segadd_accumulates (idx : Byte) {s : State} (ha : s.chActive = false) :
    ∃ t, exec (.segadd idx) s = .next t ∧ AnswersSilently 1 s t ∧
      segAccumulator t = segJoin (segAccumulator s) idx.toInt := by
  cases hb : segBit idx.toInt with
  | none =>
    refine ⟨_, exec_segadd_of_none ha hb, .respond _ ha rfl rfl, ?_⟩
    cases he : s.segErr <;> simp [segAccumulator, segJoin, raise, he, hb]
  | some p =>
    refine ⟨_, exec_segadd_of_some ha hb, .respond _ ha rfl rfl, ?_⟩
    cases he : s.segErr <;> simp [segAccumulator, segJoin, respondOk, he, hb]

/-- The SEGADDs of a list fold `segJoin` over it. -/
theorem execAll_segadds_accumulates (xs : List Byte) {s : State} (ha : s.chActive = false) :
    ∃ t, execAll (xs.map Instr.segadd) s = .next t ∧ AnswersSilently xs.length s t ∧
      segAccumulator t = (xs.map BitVec.toInt).foldl segJoin (segAccumulator s) := by
  induction xs generalizing s with
  | nil => exact ⟨s, rfl, ⟨ha, rfl, rfl⟩, rfl⟩
  | cons x xs ih =>
    obtain ⟨t, hadd, hst, hacc⟩ := exec_segadd_accumulates x ha
    obtain ⟨u, hadds, htu, haccs⟩ := ih hst.ready
    refine ⟨u, ?_, by simpa only [List.length_cons, Nat.add_comm] using hst.trans htu, ?_⟩
    · rw [List.map_cons, execAll, hadd, ← hadds]
    · rw [haccs, hacc, List.map_cons, List.foldl_cons]

/-- The response that gives a value of `seg_encode`: the pair, or the error (41_segment_mask.md R123). -/
def segResponse : Option (Byte × Byte) → Response
  | some p => ⟨.ok, p.1, p.2, 0x00⟩
  | none => errorResponse .invalidSegmentIndex

/-- SEGRD answers the value the segment registers stand for. -/
theorem exec_segrd_reads_accumulator {s : State} (ha : s.chActive = false) :
    ∃ t, exec .segrd s = .next t ∧ AnswersSilently 1 s t ∧
      t.rsps.getLast? = some (segResponse (segAccumulator s)) := by
  cases he : s.segErr with
  | false => exact ⟨_, exec_segrd_of_clear ha he, .respond _ ha rfl rfl, by simp [segAccumulator, segResponse, he]⟩
  | true =>
    exact ⟨_, exec_segrd_of_flagged ha he, .respond _ ha rfl rfl, by simp [segAccumulator, segResponse, raise, he]⟩

theorem execAll_append {is js : List Instr} {s t : State} (h : execAll is s = .next t) :
    execAll (is ++ js) s = execAll js t := by
  induction is generalizing s with
  | nil =>
    cases h
    rfl
  | cons i is ih =>
    rw [List.cons_append, execAll]
    rw [execAll] at h
    cases hi : exec i s with
    | next u => exact ih (by simpa only [hi] using h)
    | fault | refused => simp [hi] at h

/-- Settles O20: SEGCLR leaves the empty mask in the accumulator, the SEGADDs fold the list into it, SEGRD reads it. -/
theorem segmentRequestsComputeSegEncode : Obligations.SegmentRequestsComputeSegEncode := by
  intro xs s ha
  have hclear : AnswersSilently 1 s (respondOk (clearSegErr (writeMask 0x00 0x00 s))) := .respond _ ha rfl rfl
  obtain ⟨t, hadds, hst, hacc⟩ := execAll_segadds_accumulates xs hclear.ready
  obtain ⟨u, hrd, htu, hlast⟩ := exec_segrd_reads_accumulator hst.ready
  have hencode : segAccumulator t = segEncode (xs.map BitVec.toInt) := hacc
  obtain ⟨-, hout, hcount⟩ := (hclear.trans hst).trans htu
  refine ⟨u, ?_, hout, by omega, fun l h heq => ?_, fun heq => ?_⟩
  · rw [encodeCall, List.append_assoc, List.singleton_append, execAll, exec_segclr ha]
    simp only [execAll_append hadds, execAll, hrd]
  · rw [hlast, hencode, heq, segResponse]
  · rw [hlast, hencode, heq, segResponse, errorResponse]

/-! ### The list function (41_segment_mask.md R124 to R127) -/

/-- `seg_encode` of no index is the empty mask. -/
@[simp] theorem segEncode_nil : segEncode [] = some (0x00, 0x00) := rfl

theorem segEncode_eq_none_iff {xs : List Int} : segEncode xs = none ↔ ∃ i ∈ xs, segBit i = none := by
  induction xs with
  | nil => simp
  | cons a xs ih =>
    rw [List.exists_mem_cons_iff, ← ih, segEncode_cons]
    cases segBit a <;> cases segEncode xs <;> simp

/-- Settles O21: `segEncode_eq_none_iff`, and which indices have no bit. -/
theorem segEncodeFailsExactlyOnInvalidIndex : Obligations.SegEncodeFailsExactlyOnInvalidIndex := by
  refine ⟨fun xs => ?_, rfl⟩
  simp only [segEncode_eq_none_iff, segBit_eq_none_iff]
  rfl

theorem segJoin_right_comm (acc : Option (Byte × Byte)) (i j : Int) :
    segJoin (segJoin acc i) j = segJoin (segJoin acc j) i := by
  cases acc with
  | none => rfl
  | some p =>
    cases hi : segBit i <;> cases hj : segBit j <;> simp only [segJoin, hi, hj, Option.some_inj, Prod.mk.injEq]
    exact ⟨RightCommutative.right_comm .., RightCommutative.right_comm ..⟩

/-- Settles O23: two elements may be joined in either order. -/
theorem segmentOrderDoesNotMatter : Obligations.SegmentOrderDoesNotMatter :=
  fun _ _ h => h.foldl_eq' (fun i _ j _ acc => segJoin_right_comm acc i j) _

/-- The two mask bytes as one word, whose bit `i` is the mask bit of segment `i`. -/
def maskWord (p : Byte × Byte) : BitVec 16 := p.2 ++ p.1

theorem maskWord_getLsbD_low (p : Byte × Byte) {i : Nat} (h : i ≤ 7) : (maskWord p).getLsbD i = p.1.getLsbD i := by
  rw [maskWord, BitVec.getLsbD_append, if_pos (by omega)]

theorem maskWord_getLsbD_high (p : Byte × Byte) {i : Nat} (h : 8 ≤ i) :
    (maskWord p).getLsbD i = p.2.getLsbD (i - 8) := by
  rw [maskWord, BitVec.getLsbD_append, if_neg (by omega)]

/-- The mask word of a valid index is that index's power of two. -/
theorem maskWord_segBit : ∀ n : Fin 15, (segBit n.val).map maskWord = some (BitVec.twoPow 16 n) := by decide

/-- The mask word of an index has the bit of that index and no other. -/
theorem maskWord_segBit_getLsbD {a : Int} {p : Byte × Byte} (h : segBit a = some p) (i : Nat) :
    (maskWord p).getLsbD i = decide (a = i) := by
  have hvalid : ¬(a < 0 ∨ 15 ≤ a) := fun hbad => by simp [segBit_eq_none_iff.2 hbad] at h
  obtain ⟨n, rfl⟩ := Int.eq_ofNat_of_zero_le (show 0 ≤ a by omega)
  have hword : maskWord p = BitVec.twoPow 16 n := by simpa [h] using maskWord_segBit ⟨n, by omega⟩
  rw [hword, BitVec.getLsbD_twoPow, decide_eq_true (show n < 16 by omega)]
  simp

/-- A mask bit is the parity of its index in the list (41_segment_mask.md R125). -/
theorem maskWord_segEncode_getLsbD {xs : List Int} {p : Byte × Byte} (h : segEncode xs = some p) (i : Nat) :
    (maskWord p).getLsbD i = true ↔ xs.count (i : Int) % 2 = 1 := by
  induction xs generalizing p with
  | nil =>
    cases h
    simp [maskWord]
  | cons a xs ih =>
    rw [segEncode_cons] at h
    cases ha : segBit a with
    | none => simp [ha] at h
    | some q =>
      cases hxs : segEncode xs with
      | none => simp [hxs] at h
      | some r =>
        obtain rfl : (q.1 ^^^ r.1, q.2 ^^^ r.2) = p := by simpa [ha, hxs] using h
        have hword : maskWord (q.1 ^^^ r.1, q.2 ^^^ r.2) = maskWord q ^^^ maskWord r := BitVec.xor_append.symm
        rw [hword, BitVec.getLsbD_xor, maskWord_segBit_getLsbD ha, List.count_cons]
        by_cases hai : a = i
        · simp only [hai, decide_true, Bool.true_xor, Bool.not_eq_true', ← Bool.not_eq_true, ih hxs, beq_self_eq_true,
            if_true]
          omega
        · simpa [hai] using ih hxs

/-- Without repeats a mask bit is membership of its index. -/
theorem maskWord_segEncode_of_nodup {xs : List Int} {p : Byte × Byte} (h : segEncode xs = some p) (hn : xs.Nodup)
    (i : Nat) : (maskWord p).getLsbD i = true ↔ (i : Int) ∈ xs := by
  rw [maskWord_segEncode_getLsbD h, hn.count]
  split_ifs <;> simpa

/-- No index list reaches bit 7 of the high byte, which would be segment 15. -/
theorem segEncode_high_bit7 {xs : List Int} {p : Byte × Byte} (h : segEncode xs = some p) :
    p.2.getLsbD 7 = false := by
  rw [← maskWord_getLsbD_high p (i := 15) (by decide), ← Bool.not_eq_true, maskWord_segEncode_getLsbD h]
  have hvalid : 15 ∉ xs := fun hmem => by simp [segEncode_eq_none_iff.2 ⟨15, hmem, rfl⟩] at h
  simp [List.count_eq_zero_of_not_mem hvalid]

/-- The two bits of a repeated index cancel. -/
theorem segEncode_pair {i : Int} {p : Byte × Byte} (h : segBit i = some p) :
    segEncode [i, i] = some (0x00, 0x00) := by
  simp [segEncode_cons, h]

/-- Settles O22: the bits of the mask word, read off the low and the high byte. -/
theorem maskBitCountsOddOccurrences : Obligations.MaskBitCountsOddOccurrences := by
  refine ⟨fun xs hvalid => ?_, fun i h0 h14 => ?_⟩
  · obtain ⟨p, hp⟩ : ∃ p, segEncode xs = some p := by
      refine Option.ne_none_iff_exists'.1 fun hnone => ?_
      obtain ⟨i, hi, hbad⟩ := (segEncodeFailsExactlyOnInvalidIndex.1 xs).1 hnone
      have := hvalid i hi
      omega
    refine ⟨p.1, p.2, hp, segEncode_high_bit7 hp, fun i h7 => ?_, fun i h8 _ => ?_,
      fun hn => ⟨fun i h7 => ?_, fun i h8 _ => ?_⟩⟩
    · rw [← maskWord_getLsbD_low p h7, maskWord_segEncode_getLsbD hp]
    · rw [← maskWord_getLsbD_high p h8, maskWord_segEncode_getLsbD hp]
    · rw [← maskWord_getLsbD_low p h7, maskWord_segEncode_of_nodup hp hn]
    · rw [← maskWord_getLsbD_high p h8, maskWord_segEncode_of_nodup hp hn]
  · obtain ⟨p, hp⟩ : ∃ p, segBit i = some p :=
      Option.ne_none_iff_exists'.1 fun hnone => by have := segBit_eq_none hnone; omega
    exact segEncode_pair hp

/-- Settles O24: 0xFF has bit 7 set; the fifteen indices in order evaluate, and every other order is the same. -/
theorem allSegmentsPairIsNoListMask : Obligations.AllSegmentsPairIsNoListMask := by
  refine ⟨fun xs h => absurd (segEncode_high_bit7 h) (by decide), fun xs h => ?_⟩
  rw [segmentOrderDoesNotMatter _ _ h]
  rfl

end Sys2Proof.Machine
end

section
/-! CHUNK and the frames of `chunk(c, h, P)`: what the request answers, what one emission puts out, the run of emissions
as one state per frame number, and the payload read back from the frames (42_chunker.md). -/

namespace Sys2Proof.Machine

/-! ### The request (42_chunker.md R142, R149, R150) -/

section ChunkRequest

variable (c : Byte) {n : BitVec 4} (h : Vector Byte 14) {e : BitVec 16} {m : Byte} {s : State}

/-- CHUNK of the empty payload. -/
theorem exec_chunk_of_empty (ha : s.chActive = false) (he : e.toNat = 0) :
    exec (.chunk c n h e m) s = .next (respondOk s) := by
  rw [exec, execChunk, whenReady_of_ready _ ha, if_pos he]

/-- CHUNK of a payload with a header that leaves no room for data. -/
theorem exec_chunk_of_longHeader (ha : s.chActive = false) (he : e.toNat ≠ 0) (hn : 14 < n.toNat) :
    exec (.chunk c n h e m) s = .next (raise .invalidPayloadLength s) := by
  rw [exec, execChunk, whenReady_of_ready _ ha, if_neg he, if_pos hn]

/-- CHUNK of a payload that needs more frames than the limit. -/
theorem exec_chunk_of_tooManyFrames (ha : s.chActive = false) (he : e.toNat ≠ 0) (hn : n.toNat ≤ 14)
    (hm : m.toNat < ceilDiv e.toNat (15 - n.toNat)) :
    exec (.chunk c n h e m) s = .next (raise .payloadTooLarge s) := by
  rw [exec, execChunk, whenReady_of_ready _ ha, if_neg he, if_neg (not_lt.2 hn), if_pos hm]

/-- The state of an accepted CHUNK, before its first frame. -/
def chunkLoaded (c : Byte) (n : BitVec 4) (h : Vector Byte 14) (e : BitVec 16) (s : State) : State :=
  respond ⟨.ok, 0x00, 0x00, BitVec.ofNat 8 (ceilDiv e.toNat (15 - n.toNat))⟩
    (setActive (loadSequencer c n (headerLanes n h) e (BitVec.ofNat 8 (ceilDiv e.toNat (15 - n.toNat))) s))

/-- CHUNK of a payload that passes the three checks. -/
theorem exec_chunk_of_accepted (ha : s.chActive = false) (he : e.toNat ≠ 0) (hn : n.toNat ≤ 14)
    (hm : ceilDiv e.toNat (15 - n.toNat) ≤ m.toNat) :
    exec (.chunk c n h e m) s = .next (chunkLoaded c n h e s) := by
  rw [exec, execChunk, whenReady_of_ready _ ha, if_neg he, if_neg (not_lt.2 hn), if_neg (not_lt.2 hm)]
  rfl

end ChunkRequest

/-- A number no greater than a byte's, as a frame count within the limit or a frame number, fits a byte. -/
theorem toNat_ofNat_of_le {k : Nat} {m : Byte} (hm : k ≤ m.toNat) : (BitVec.ofNat 8 k).toNat = k :=
  Nat.mod_eq_of_lt (hm.trans_lt m.isLt)

/-- Settles O26: one lemma per check, and the load. -/
theorem chunkChecksInOrderThenLoads : Obligations.ChunkChecksInOrderThenLoads := by
  intro c n h e m s ha
  refine ⟨⟨_, rfl, rfl⟩, exec_chunk_of_empty c h ha, exec_chunk_of_longHeader c h ha,
    exec_chunk_of_tooManyFrames c h ha, fun he hn hm => ?_⟩
  refine ⟨_, headerLanes n h, toNat_ofNat_of_le hm, fun i => ?_, exec_chunk_of_accepted c h ha he hn hm⟩
  simp [headerLanes]

/-- What the status of a CHUNK that is accepted says of its payload. -/
theorem length_le_of_requestStatus_ok {s : State} {c : Byte} {n : BitVec 4} {h : Vector Byte 14} {e : BitVec 16}
    {m : Byte} (hok : requestStatus s (.chunk c n h e m) = .ok) : e.toNat ≤ 3825 := by
  rw [requestStatus] at hok
  split_ifs at hok with he hn hm
  · omega
  · have hcover := (ceilDiv_le_iff m.toNat (by omega)).1 (not_lt.1 hm)
    have hlimit : m.toNat * (15 - n.toNat) ≤ 255 * 15 := Nat.mul_le_mul (Nat.le_of_lt_succ m.isLt) (Nat.sub_le _ _)
    omega

/-- Settles O27: the tabled condition of the error, `lt_ceilDiv_iff`, and the cover of 255 slices. -/
theorem payloadTooLargeExactlyPastMaxc : Obligations.PayloadTooLargeExactlyPastMaxc := by
  intro c n h e m s ha
  obtain ⟨t, hexec, r, hr, hstatus⟩ := exec_request_answers (i := .chunk c n h e m) rfl ha
  have hlarge : r.status = .payloadTooLarge ↔
      1 ≤ e.toNat ∧ n.toNat ≤ 14 ∧ m.toNat < ceilDiv e.toNat (15 - n.toNat) := by
    simp [hstatus, requestStatus_eq_payloadTooLarge_iff, Nat.succ_le_iff]
  refine ⟨t, r, hexec, hr, hlarge, ?_, fun hok => length_le_of_requestStatus_ok (hstatus ▸ hok)⟩
  rw [hlarge]
  exact and_congr_right fun _ => and_congr_right fun hn => lt_ceilDiv_iff m.toNat (by omega)

/-- No bytes need no slice. -/
theorem ceilDiv_zero_left {size : Nat} (h : 1 ≤ size) : ceilDiv 0 size = 0 :=
  Nat.le_zero.1 ((ceilDiv_le_iff 0 h).2 (Nat.zero_le _))

/-- Settles O32: `chunk` of no bytes has no slice, and `exec_chunk_of_empty`. -/
theorem emptyPayloadGivesNoFrame : Obligations.EmptyPayloadGivesNoFrame := by
  refine ⟨fun base c h hh => ?_, fun c n h m s ha => ?_⟩
  · have hzero : ceilDiv ([] : List Byte).length (15 - h.length) = 0 := ceilDiv_zero_left (by omega)
    rw [chunkFrames_eq _ c h [] hh (by omega), hzero]
    rfl
  · exact ⟨_, exec_chunk_of_empty c h ha rfl, sameSequencer_refl s, ⟨rfl, rfl, rfl⟩, rfl, rfl, rfl⟩

/-! ### One emission (42_chunker.md R143) -/

/-- The emission where it is defined. -/
theorem sequencerEmit_eq_afterEmission {s : State} (h : SequencerReady s) :
    sequencerEmit s = .next (afterEmission (sealFrame s.chCmd (padPayload (sequencerPayload s)))
      ((sequencerOffsets s).map (BitVec.ofNat 16)) s) := by
  rw [sequencerEmit_of_ready h, advanceSequencer_eq]
  by_cases hlast : s.chSeq.toNat + 1 = s.chTotal.toNat <;> simp [afterEmission, emit, logReads, hlast, h.1]

/-- An undisturbed step of an active sequence. -/
theorem step_eq_afterEmission {s : State} (ha : s.chActive = true) (hinv : SequencerInv s)
    (hq : undisturbed 1 s.inputs = true) :
    step s = .next (afterEmission (sealFrame s.chCmd (padPayload (sequencerPayload s)))
      ((sequencerOffsets s).map (BitVec.ofNat 16)) (withInputs (eventsAfter 1 s.inputs) s)) :=
  (step_of_active ha hq).trans
    (sequencerEmit_eq_afterEmission (sequencerReady_of_inv ha (hinv.congr (sameSequencer_refl s))))

theorem add_one_eq_ofNat_toNat (b : Byte) : b + 1 = BitVec.ofNat 8 (b.toNat + 1) := by
  rw [BitVec.ofNat_add, BitVec.ofNat_toNat, BitVec.setWidth_eq]
  rfl

/-- Settles O28: `step_eq_afterEmission` written out. -/
theorem emissionPutsOutTheNextSlice : Obligations.EmissionPutsOutTheNextSlice := by
  intro s ha hinv hq
  have hn := hinv.hlen_le
  have hlt := hinv.seq_lt
  have htotal := s.chTotal.isLt
  have hbase := seqBaseNat_le_one s.cfg.seqBase
  have hslice : 1 ≤ sliceLen (15 - s.chHlen.toNat) s.chLen.toNat s.chSeq.toNat :=
    one_le_sliceLen (by omega) (hinv.total_eq ▸ hlt)
  refine ⟨sealFrame s.chCmd (padPayload (sequencerPayload s)), _, rfl, hslice, ?_, by omega, by omega,
    (step_eq_afterEmission ha hinv hq).trans ?_⟩
  · rw [← build_of_le (sequencerPayload_length hn), sequencerPayload, sequencerOffsets, sliceOffsets, List.map_map]
    rfl
  · rw [← add_one_eq_ofNat_toNat, sequencerOffsets, sliceOffsets, List.map_map]
    rfl

/-! ### Slices one after another (42_chunker.md R141) -/

/-- Consecutive runs of `size` elements are the list from its start. -/
theorem flatMap_take_drop {α : Type} (l : List α) (size k : Nat) :
    ((List.range k).flatMap fun i => (l.drop (i * size)).take size) = l.take (k * size) := by
  induction k with
  | zero => simp
  | succ k ih => rw [List.range_succ, List.flatMap_append, ih, Nat.succ_mul, List.take_add, List.flatMap_singleton]

/-- The bound of the last slice at the end of the payload cuts nothing off. -/
theorem slice_eq_take_drop (p : List Byte) (size k : Nat) :
    slice p (k * size) (min ((k + 1) * size) p.length) = (p.drop (k * size)).take size := by
  rw [slice, ← sliceLen_eq_sub, sliceLen, ← List.length_drop, List.take_eq_take_iff]
  omega

theorem slice_length (p : List Byte) (size k : Nat) :
    (slice p (k * size) (min ((k + 1) * size) p.length)).length = sliceLen size p.length k := by
  rw [slice_eq_take_drop, List.length_take, List.length_drop, sliceLen]

theorem sliceOffsets_eq_take_drop (size len k : Nat) :
    sliceOffsets size len k = ((List.range len).drop (k * size)).take size :=
  List.ext_getElem (by simp [sliceLen]) fun i _ _ => by simp [sliceOffsets]

/-- The slices below the frame count read each offset of the payload once, in ascending order. -/
theorem flatMap_sliceOffsets {size : Nat} (len : Nat) (h : 1 ≤ size) :
    (List.range (ceilDiv len size)).flatMap (sliceOffsets size len) = List.range len := by
  have hcover : len ≤ ceilDiv len size * size := (ceilDiv_le_iff _ h).1 le_rfl
  simp only [funext (sliceOffsets_eq_take_drop size len), flatMap_take_drop]
  exact List.take_of_length_le (by simpa using hcover)

theorem payloadOf_length (s : State) (len : Nat) : (payloadOf s len).length = len := by simp [payloadOf]

/-- A slice of the payload in `EP` is what its offsets read. -/
theorem slice_payloadOf (s : State) (size len k : Nat) :
    slice (payloadOf s len) (k * size) (min ((k + 1) * size) len) =
      (sliceOffsets size len k).map (Memory.read s.ep) := by
  have h := slice_eq_take_drop (payloadOf s len) size k
  rw [payloadOf_length] at h
  rw [h, payloadOf, sliceOffsets_eq_take_drop, List.map_take, List.map_drop]

/-! ### The run of a sequence (42_chunker.md R146, R157) -/

/-- A run through states that step to one another. -/
theorem run_of_steps {u : Nat → State} {n : Nat} (h : ∀ k < n, step (u k) = .next (u (k + 1))) :
    core.run n (u 0) = .next (u n) := by
  induction n generalizing u with
  | zero => exact run_zero _
  | succ n ih =>
    rw [run_succ (h 0 n.succ_pos)]
    exact ih (u := fun k => u (k + 1)) fun k hk => h (k + 1) (Nat.succ_lt_succ hk)

theorem eventsAfter_succ_right (k : Nat) (l : List Input) :
    eventsAfter (k + 1) l = eventsAfter 1 (eventsAfter k l) := by
  induction k generalizing l with
  | zero => rw [eventsAfter_zero]
  | succ k ih => rw [eventsAfter_succ, ih, ← eventsAfter_succ]

/-- Each single step of an undisturbed stretch is undisturbed. -/
theorem undisturbed_eventsAfter {n k : Nat} {l : List Input} (h : undisturbed n l = true) (hk : k < n) :
    undisturbed 1 (eventsAfter k l) = true := by
  induction k generalizing n l with
  | zero =>
    obtain ⟨n, rfl⟩ := Nat.exists_eq_add_of_le' hk
    exact ((undisturbed_succ n l).1 h).1
  | succ k ih =>
    obtain ⟨n, rfl⟩ := Nat.exists_eq_add_of_le' (Nat.zero_lt_of_lt hk)
    rw [eventsAfter_succ]
    exact ih ((undisturbed_succ n l).1 h).2 (Nat.lt_of_succ_lt_succ hk)

/-- The offsets of slice `k` of the payload that the sequencer registers describe. -/
def frameOffsets (s : State) (k : Nat) : List Nat := sliceOffsets (15 - s.chHlen.toNat) s.chLen.toNat k

/-- Frame `k` of the sequence that the sequencer registers describe (30_encoding.md R77). -/
def sequenceFrame (s : State) (k : Nat) : Frame :=
  sealFrame s.chCmd (padPayload (chunkFramePayload (seqBaseNat s.cfg.seqBase) k s.chTotal
    (s.chHdr.toList.take s.chHlen.toNat) ((frameOffsets s k).map (Memory.read s.ep))))

/-- The state when the first `k` frames of the sequence loaded in `s` are out (`run_of_loaded`). -/
def afterFrames (s : State) (k : Nat) : State :=
  { s with
    chSeq := BitVec.ofNat 8 k
    chActive := decide (k < s.chTotal.toNat)
    out := s.out ++ (List.range k).map (sequenceFrame s)
    epReads := s.epReads ++ ((List.range k).flatMap (frameOffsets s)).map (BitVec.ofNat 16)
    inputs := eventsAfter k s.inputs }

/-- The emission of frame `k` leads from the state after `k` frames to the next. -/
theorem step_afterFrames {s : State} (hinv : SequencerInv s) (hq : undisturbed s.chTotal.toNat s.inputs = true)
    {k : Nat} (hk : k < s.chTotal.toNat) : step (afterFrames s k) = .next (afterFrames s (k + 1)) := by
  have hseq : (BitVec.ofNat 8 k).toNat = k := toNat_ofNat_of_le hk.le
  have hinv' : SequencerInv (afterFrames s k) :=
    ⟨hinv.hlen_le, hinv.len_pos, hinv.total_eq, hinv.total_pos, hseq.symm ▸ hk, hinv.hdr_zero⟩
  have hoffsets : sequencerOffsets (afterFrames s k) = frameOffsets s k :=
    congrArg (sliceOffsets _ _) hseq
  have hframe : sealFrame s.chCmd (padPayload (sequencerPayload (afterFrames s k))) = sequenceFrame s k := by
    rw [sequencerPayload, hoffsets]
    simp only [afterFrames, hseq]
    rfl
  have hnumber : BitVec.ofNat 8 k + 1 = BitVec.ofNat 8 (k + 1) := by rw [add_one_eq_ofNat_toNat, hseq]
  have hactive : decide (k + 1 ≠ s.chTotal.toNat) = decide (k + 1 < s.chTotal.toNat) :=
    decide_eq_decide.2 (by omega)
  rw [step_eq_afterEmission (decide_eq_true hk) hinv' (undisturbed_eventsAfter hq hk), hoffsets]
  change Host.Outcome.next (afterEmission (sealFrame s.chCmd _) _ _) = _
  rw [hframe]
  simp only [afterEmission, afterFrames, withInputs, hseq, hnumber, hactive, eventsAfter_succ_right k, List.range_succ,
    List.map_append, List.flatMap_append, List.flatMap_singleton, List.map_singleton, List.append_assoc]

/-- An undisturbed run from a sequence just loaded puts out its frames one by one. -/
theorem run_of_loaded {s : State} (ha : s.chActive = true) (h0 : s.chSeq = 0) (hinv : SequencerInv s)
    (hq : undisturbed s.chTotal.toNat s.inputs = true) :
    core.run s.chTotal.toNat s = .next (afterFrames s s.chTotal.toNat) := by
  have hactive : decide (0 < s.chTotal.toNat) = s.chActive := (decide_eq_true hinv.total_pos).trans ha.symm
  have hnumber : 0#8 = s.chSeq := h0.symm
  have hstart : afterFrames s 0 = s := by simp [afterFrames, hactive, hnumber]
  have hrun := run_of_steps fun k hk => step_afterFrames hinv hq (k := k) hk
  rwa [hstart] at hrun

/-- The lanes that the load clears are not among the header bytes used. -/
theorem headerLanes_take (n : BitVec 4) (h : Vector Byte 14) :
    (headerLanes n h).toList.take n.toNat = h.toList.take n.toNat :=
  List.ext_getElem (by simp) fun i hi _ => by
    obtain ⟨hlt, -⟩ : i < n.toNat ∧ i < 14 := by simpa using hi
    simp [headerLanes, hlt]

/-- The frames owed after an accepted CHUNK are `chunk(c, h, P)`. -/
theorem chunkFrames_eq_sequenceFrames (c : Byte) {n : BitVec 4} (h : Vector Byte 14) {e : BitVec 16} (s : State)
    (hn : n.toNat ≤ 14) (hT : ceilDiv e.toNat (15 - n.toNat) ≤ 255) :
    chunkFrames (seqBaseNat s.cfg.seqBase) c (h.toList.take n.toNat) (payloadOf s e.toNat) =
      some ((List.range (ceilDiv e.toNat (15 - n.toNat))).map (sequenceFrame (chunkLoaded c n h e s))) := by
  have hhlen : (h.toList.take n.toNat).length = n.toNat := by simpa using hn
  have hplen := payloadOf_length s e.toNat
  rw [chunkFrames_eq _ _ _ _ (hhlen.le.trans hn) (by rwa [hhlen, hplen]), hhlen, hplen]
  simp only [slice_payloadOf, ← headerLanes_take n h]
  rfl

/-- `CH_TOTAL` of an accepted CHUNK holds the frame count. -/
theorem chunkLoaded_chTotal_toNat (c : Byte) {n : BitVec 4} (h : Vector Byte 14) {e : BitVec 16} {m : Byte} (s : State)
    (hm : ceilDiv e.toNat (15 - n.toNat) ≤ m.toNat) :
    (chunkLoaded c n h e s).chTotal.toNat = ceilDiv e.toNat (15 - n.toNat) :=
  toNat_ofNat_of_le hm

/-- An undisturbed run from an accepted CHUNK puts out the frames owed. -/
theorem run_of_chunkLoaded (c : Byte) {n : BitVec 4} (h : Vector Byte 14) {e : BitVec 16} {m : Byte} {s : State}
    (hq : undisturbed (ceilDiv e.toNat (15 - n.toNat)) s.inputs = true) (he : e.toNat ≠ 0) (hn : n.toNat ≤ 14)
    (hm : ceilDiv e.toNat (15 - n.toNat) ≤ m.toNat) :
    core.run (ceilDiv e.toNat (15 - n.toNat)) (chunkLoaded c n h e s) =
      .next (afterFrames (chunkLoaded c n h e s) (ceilDiv e.toNat (15 - n.toNat))) := by
  obtain ⟨hlen, hpos, htotal, htpos, hseq, hhdr⟩ := SequencerInv.of_loaded (c := c) (h := h) s he hn hm
  have hinv : SequencerInv (chunkLoaded c n h e s) := ⟨hlen, hpos, htotal, htpos, hseq, hhdr⟩
  rw [← chunkLoaded_chTotal_toNat c h s hm] at hq ⊢
  exact run_of_loaded rfl rfl hinv hq

/-- Settles O29: the empty payload by itself; else `run_of_chunkLoaded`. -/
theorem acceptedChunkEmitsChunkFrames : Obligations.AcceptedChunkEmitsChunkFrames := by
  intro c n h e m s ha hq hn hm
  have hframes := chunkFrames_eq_sequenceFrames c h s hn (hm.trans (Nat.le_of_lt_succ m.isLt))
  by_cases he : e.toNat = 0
  · have hzero : ceilDiv e.toNat (15 - n.toNat) = 0 := he ▸ ceilDiv_zero_left (by omega)
    rw [hzero] at hframes ⊢
    exact ⟨_, _, [], exec_chunk_of_empty c h ha he, rfl, hframes, rfl, run_zero _, by simp, ha, by simp [he], rfl,
      rfl, rfl, rfl, rfl, rfl⟩
  · have hlength : ((List.range (ceilDiv e.toNat (15 - n.toNat))).map (sequenceFrame (chunkLoaded c n h e s))).length =
        ceilDiv e.toNat (15 - n.toNat) := by simp
    have hreads : (List.range (ceilDiv e.toNat (15 - n.toNat))).flatMap (frameOffsets (chunkLoaded c n h e s)) =
        List.range e.toNat := flatMap_sliceOffsets (size := 15 - n.toNat) e.toNat (by omega)
    refine ⟨_, afterFrames (chunkLoaded c n h e s) (ceilDiv e.toNat (15 - n.toNat)), _,
      exec_chunk_of_accepted c h ha he hn hm, rfl, hframes, hlength, ?_, rfl, ?_, ?_, rfl, ?_, rfl, rfl, rfl, rfl⟩
    · rw [hlength, run_of_chunkLoaded c h hq he hn hm]
    · exact decide_eq_false (by rw [chunkLoaded_chTotal_toNat c h s hm]; exact lt_irrefl _)
    · rw [← hreads]
      rfl
    · rw [hlength]
      rfl

/-- Settles O35: by O29 each run appends `chunk(c, h, P)`, whose arguments the two runs share. -/
theorem chunkFramesDependOnlyOnTheirOperands : Obligations.ChunkFramesDependOnlyOnTheirOperands := by
  intro c n h h' e m m' s s' t t' u u' ha ha' hq hq' hbase hpayload hheader hn hm hm' ht ht' hu hu'
  obtain ⟨t₁, u₁, frames, hexec, -, hframes, hlen, hrun, hout, -⟩ :=
    acceptedChunkEmitsChunkFrames c n h e m s ha hq hn hm
  obtain ⟨t₂, u₂, frames', hexec', -, hframes', hlen', hrun', hout', -⟩ :=
    acceptedChunkEmitsChunkFrames c n h' e m' s' ha' hq' hn hm'
  cases ht.symm.trans hexec
  cases ht'.symm.trans hexec'
  rw [hlen] at hrun
  rw [hlen'] at hrun'
  cases hu.symm.trans hrun
  cases hu'.symm.trans hrun'
  rw [hbase, hheader, hpayload] at hframes
  cases hframes.symm.trans hframes'
  exact ⟨frames, hout, hout'⟩

/-! ### The payload read back (42_chunker.md R148) -/

section FrameData

variable (base k : Nat) (c total : Byte) {h d : List Byte}

/-- Behind its header a chunk frame holds its data, the padding and the checksum. -/
theorem chunkFrame_drop (hlen : h.length + d.length ≤ 15) :
    ∃ x, (sealFrame c (padPayload (chunkFramePayload base k total h d))).toList.drop (4 + h.length) =
      (d ++ List.replicate (15 - h.length - d.length) 0x00) ++ [x] := by
  have hfits : (chunkFramePayload base k total h d).length = 2 + h.length + d.length := by
    simp only [chunkFramePayload, List.length_append, List.length_cons, List.length_nil]
  have hfront : ([0x33, c, BitVec.ofNat 8 (base + k), total] ++ h).length = 4 + h.length := by
    simp only [List.length_append, List.length_cons, List.length_nil]
  have hpad : 17 - (2 + h.length + d.length) = 15 - h.length - d.length := by omega
  rw [sealFrame_padPayload_toList c (by omega), hfits, hpad]
  refine ⟨xorAll ([0x33, c] ++ chunkFramePayload base k total h d), ?_⟩
  simp only [chunkFramePayload, List.append_assoc]
  exact List.drop_left' (l₁ := [0x33, c, BitVec.ofNat 8 (base + k), total] ++ h) hfront

/-- The data bytes of a chunk frame, taken with their number known. -/
theorem chunkFrame_slice_data (hlen : h.length + d.length ≤ 15) :
    slice (sealFrame c (padPayload (chunkFramePayload base k total h d))).toList (4 + h.length)
      (4 + h.length + d.length) = d := by
  obtain ⟨x, hdrop⟩ := chunkFrame_drop base k c total hlen
  rw [slice, hdrop, List.append_assoc, List.take_left' (by omega)]

/-- The full data field of a chunk frame, padding and all. -/
theorem chunkFrame_slice_field (hlen : h.length + d.length ≤ 15) :
    slice (sealFrame c (padPayload (chunkFramePayload base k total h d))).toList (4 + h.length) 19 =
      d ++ List.replicate (15 - h.length - d.length) 0x00 := by
  obtain ⟨x, hdrop⟩ := chunkFrame_drop base k c total hlen
  rw [slice, hdrop, List.take_left']
  rw [List.length_append, List.length_replicate]
  omega

end FrameData

/-- A slice padded to the full size is the slice of the payload padded to full slices. -/
theorem slice_append_zeros {p : List Byte} {size k : Nat} (h : 1 ≤ size) (hk : k < ceilDiv p.length size) :
    slice p (k * size) (min ((k + 1) * size) p.length) ++
        List.replicate (size - (slice p (k * size) (min ((k + 1) * size) p.length)).length) 0x00 =
      ((p ++ List.replicate (ceilDiv p.length size * size - p.length) 0x00).drop (k * size)).take size := by
  have hstart : k * size < p.length := (lt_ceilDiv_iff k h).1 hk
  have hend : (k + 1) * size ≤ ceilDiv p.length size * size := Nat.mul_le_mul_right size hk
  rw [Nat.succ_mul] at hend
  rw [List.drop_append_of_le_length hstart.le, List.take_append, ← slice_eq_take_drop, slice_length, sliceLen,
    List.take_replicate, List.length_drop]
  congr 2
  omega

/-- The slices one after another are the payload. -/
theorem flatMap_slice (p : List Byte) {size : Nat} (h : 1 ≤ size) :
    ((List.range (ceilDiv p.length size)).flatMap fun k =>
      slice p (k * size) (min ((k + 1) * size) p.length)) = p := by
  have hcover : p.length ≤ ceilDiv p.length size * size := (ceilDiv_le_iff _ h).1 le_rfl
  simp only [slice_eq_take_drop, flatMap_take_drop]
  exact List.take_of_length_le hcover

/-- The padded slices one after another are the padded payload. -/
theorem flatMap_slice_append_zeros (p : List Byte) {size : Nat} (h : 1 ≤ size) :
    ((List.range (ceilDiv p.length size)).flatMap fun k =>
      slice p (k * size) (min ((k + 1) * size) p.length) ++
        List.replicate (size - (slice p (k * size) (min ((k + 1) * size) p.length)).length) 0x00) =
      p ++ List.replicate (ceilDiv p.length size * size - p.length) 0x00 := by
  have hcover : p.length ≤ ceilDiv p.length size * size := (ceilDiv_le_iff _ h).1 le_rfl
  rw [List.flatMap_congr fun k hk => slice_append_zeros h (List.mem_range.1 hk), flatMap_take_drop,
    List.take_of_length_le]
  rw [List.length_append, List.length_replicate]
  omega

/-- Settles O31: frame by frame the data are the slices of the payload, and the data fields its padded slices. -/
theorem chunkRoundTripRestoresPayload : Obligations.ChunkRoundTripRestoresPayload := by
  intro base c h p frames hc
  obtain ⟨hh, hT⟩ := chunkFrames_defined hc
  rw [chunkFrames_eq _ c h p hh hT] at hc
  cases hc
  rw [List.length_map, List.length_range]
  constructor
  · refine (List.flatMap_congr fun k hk => ?_).trans (flatMap_slice p (size := 15 - h.length) (by omega))
    rw [List.getElem?_map, List.getElem?_range (List.mem_range.1 hk), ← slice_length]
    exact chunkFrame_slice_data _ k c _ (chunkSlice_length_le k hh)
  · rw [List.flatMap_map]
    refine (List.flatMap_congr fun k _ => ?_).trans
      (flatMap_slice_append_zeros p (size := 15 - h.length) (by omega))
    exact chunkFrame_slice_field _ k c _ (chunkSlice_length_le k hh)

end Sys2Proof.Machine
end

section
/-! The command formatters: the payloads of POWER, BRIGHT and COLOR as FrameBuilder emits them, the two errors, and the
brightness level as the nearest integer to `255*q/100` (43_command_formatters.md). -/

namespace Sys2Proof.Machine

/-- A request that delegates a payload that fits emits the frame laid out around it, answers OK and changes nothing
else (40_frame_assembly.md R105). -/
theorem exec_of_delegated {i : Instr} {c : Byte} {p : List Byte} {s : State} (ha : s.chActive = false)
    (hi : exec i s = whenReady s (emitBuilt c p s)) (hp : p.length ≤ 17) :
    ∃ f : Frame,
      f.toList = [0x33, c] ++ p ++ List.replicate (17 - p.length) 0x00 ++ [xorAll ([0x33, c] ++ p)] ∧
      exec i s = .next { s with out := s.out ++ [f], rsps := s.rsps ++ [⟨.ok, 0x00, 0x00, 0x00⟩] } := by
  refine ⟨_, sealFrame_padPayload_toList c hp, ?_⟩
  rw [hi, whenReady_of_ready _ ha, emitBuilt_of_le s hp]
  rfl

/-! ### The brightness level (43_command_formatters.md R173) -/

theorem level_halfUp (q : Nat) : level .halfUp q = (255 * q + 50) / 100 := rfl

/-- Away from an exact half the two modes agree. -/
theorem level_halfEven_of_no_tie {q : Nat} (h : 255 * q % 100 ≠ 50) : level .halfEven q = level .halfUp q := if_neg h

/-- On an exact half `half_even` takes the even neighbour. -/
theorem level_halfEven_of_tie {q : Nat} (h : 255 * q % 100 = 50) :
    level .halfEven q = 255 * q / 100 + 255 * q / 100 % 2 := if_pos h

theorem tie_iff {q : Nat} (hq : q ≤ 100) :
    255 * q % 100 = 50 ↔ q = 10 ∨ q = 30 ∨ q = 50 ∨ q = 70 ∨ q = 90 := by omega

/-- In both modes the level is at most one half away from `255*q/100`. -/
theorem level_nearest (mode : RoundMode) (q : Nat) :
    100 * level mode q ≤ 255 * q + 50 ∧ 255 * q ≤ 100 * level mode q + 50 := by
  have hup : 100 * level .halfUp q ≤ 255 * q + 50 ∧ 255 * q ≤ 100 * level .halfUp q + 50 := by
    rw [level_halfUp]
    omega
  cases mode with
  | halfUp => exact hup
  | halfEven =>
    by_cases htie : 255 * q % 100 = 50
    · rw [level_halfEven_of_tie htie]
      omega
    · rwa [level_halfEven_of_no_tie htie]

theorem level_le_255 (mode : RoundMode) {q : Nat} (hq : q ≤ 100) : level mode q ≤ 255 := by
  have := level_nearest mode q
  omega

/-- One percent is worth more than two levels, so two nearest integers keep the order of their percents. -/
theorem level_mono (mode : RoundMode) {q r : Nat} (h : q ≤ r) : level mode q ≤ level mode r := by
  obtain rfl | hlt := h.eq_or_lt
  · exact le_rfl
  · have hq := level_nearest mode q
    have hr := level_nearest mode r
    omega

theorem level_ends (mode : RoundMode) : level mode 0 = 0 ∧ level mode 100 = 255 := by
  have h0 := level_nearest mode 0
  have h100 := level_nearest mode 100
  omega

theorem level_halfEven_even_of_tie {q : Nat} (h : 255 * q % 100 = 50) : level .halfEven q % 2 = 0 := by
  rw [level_halfEven_of_tie h]
  omega

/-- Of the five ties, `half_up` leaves an odd level at two. -/
theorem level_modes_differ_iff {q : Nat} (hq : q ≤ 100) :
    level .halfUp q ≠ level .halfEven q ↔ q = 30 ∨ q = 70 := by
  by_cases htie : 255 * q % 100 = 50
  · rw [level_halfUp, level_halfEven_of_tie htie]
    omega
  · rw [level_halfEven_of_no_tie htie]
    omega

/-- Settles O38: the bound of one half fixes the ends and the order; the modes are compared at the ties. -/
theorem levelIsNearestWithItsTieRule : Obligations.LevelIsNearestWithItsTieRule := by
  refine ⟨fun q _ => level_halfUp q, fun mode q hq => ?_, fun _ => tie_iff, fun _ _ => level_halfEven_even_of_tie,
    level_ends, fun _ => level_modes_differ_iff, fun mode _ _ h _ => level_mono mode h⟩
  obtain ⟨habove, hbelow⟩ := level_nearest mode q
  exact ⟨habove, hbelow, level_le_255 mode hq⟩

/-! ### `POWER`, `BRIGHT`, `COLOR` (43_command_formatters.md R171, R172, R174) -/

/-- POWER delegates the frame of its one byte. -/
theorem exec_power (on : Bool) (s : State) :
    exec (.power on) s = whenReady s (emitBuilt cmdPower (powerPayload on) s) := rfl

/-- Settles O36: the checksum is the prefix, the command and the one payload byte joined, for either byte. -/
theorem powerEmitsItsFrame : Obligations.PowerEmitsItsFrame := by
  intro on s ha
  refine ⟨⟨_, rfl, rfl⟩, ?_⟩
  obtain ⟨f, hf, hexec⟩ := exec_of_delegated ha (exec_power on s) (by simp [powerPayload])
  refine ⟨f, hf.trans ?_, hexec⟩
  cases on <;> rfl

/-- BRIGHT of a percent in range, whose level fits a byte. -/
theorem exec_bright_of_inRange {p : Byte} {q : Nat} {s : State} (hp : p.toInt = q) (hq : q ≤ 100) :
    ∃ lv : Byte, lv.toNat = level s.cfg.roundMode q ∧
      exec (.bright p) s = whenReady s (emitBuilt cmdBright (brightPayload lv) s) := by
  have hlv : (BitVec.ofNat 8 (level s.cfg.roundMode q)).toNat = level s.cfg.roundMode q :=
    toNat_ofNat_of_le (m := 255) (level_le_255 _ hq)
  exact ⟨_, hlv, execBright_of_inRange hp hq hlv⟩

/-- BRIGHT of a percent out of range. -/
theorem exec_bright_of_outOfRange {p : Byte} {s : State} (ha : s.chActive = false) (h : p.toInt < 0 ∨ 100 < p.toInt) :
    exec (.bright p) s = .next (raise .invalidValueRange s) := by
  rw [exec, execBright, whenReady_of_ready _ ha, if_pos h]

/-- Settles O37: in range BRIGHT delegates the frame of its level, out of range it raises. -/
theorem brightEmitsLevelOrRefusesRange : Obligations.BrightEmitsLevelOrRefusesRange := by
  refine fun p s ha => ⟨⟨_, rfl, rfl⟩, fun q hp hq => ?_, fun h => exec_bright_of_outOfRange ha h⟩
  obtain ⟨lv, hlv, hdelegates⟩ := exec_bright_of_inRange (s := s) hp hq
  obtain ⟨f, hf, hexec⟩ := exec_of_delegated ha hdelegates (by simp [brightPayload])
  refine ⟨f, lv, hlv, hf.trans ?_, hexec⟩
  simp [brightPayload, ← BitVec.xor_assoc]

section Color

variable (r g b : Byte) {s : State}

/-- COLOR delegates the frame of the fixed mask in the all-segments mode, whatever the accumulator and the flag. -/
theorem exec_color_all : exec (.color r g b false) s =
    whenReady s (emitBuilt cmdColor (colorPayload modeAll r g b maskAllLow maskAllHigh) s) := rfl

/-- COLOR delegates the frame of the accumulator in the segment-targeted mode, while the flag is clear. -/
theorem exec_color_seg_of_clear (he : s.segErr = false) : exec (.color r g b true) s =
    whenReady s (emitBuilt cmdColor (colorPayload modeSegment r g b s.segLow s.segHigh) s) := by
  simp [exec, execColor, he]

/-- COLOR in the segment-targeted mode propagates the failure the flag records. -/
theorem exec_color_seg_of_flagged (ha : s.chActive = false) (he : s.segErr = true) :
    exec (.color r g b true) s = .next (raise .invalidSegmentIndex s) := by
  simp [exec, execColor, whenReady_of_ready _ ha, he]

end Color

/-- Settles O39: one lemma per mode and per value of the flag. -/
theorem colorEmitsItsFrameOrPropagatesFailure : Obligations.ColorEmitsItsFrameOrPropagatesFailure := by
  refine fun r g b s ha => ⟨fun _ => ⟨_, rfl, rfl⟩, ?_, fun he => ?_, exec_color_seg_of_flagged r g b ha⟩
  · exact exec_of_delegated ha (exec_color_all r g b) (by simp)
  · exact exec_of_delegated ha (exec_color_seg_of_clear r g b he) (by simp)

end Sys2Proof.Machine
end

section
/-! A reset that ends a sequence. -/

namespace Sys2Proof.Machine

/-- The reset step leaves a run that is over where no request comes after it (70_reset_and_hazards.md R210, R37). -/
theorem final_of_reset (s : State) {rest : List Input} (hr : ∀ r, Input.request r ∉ rest) :
    Final (resetRegisters (withInputs rest s)) :=
  ⟨hr, resetRegisters_chActive _⟩

/-- Settles O59: the reset step keeps the histories and leaves a final state, and a run from there adds nothing.
That a sequence was active before the reset is not needed. -/
theorem resetCutsTheSequenceShort : Obligations.ResetCutsTheSequenceShort := by
  intro s k _ hin
  obtain ⟨t, hrun, ⟨-, hinactive⟩, hout, hrsps, -⟩ := run_of_final (final_of_reset s (rest := []) (by simp)) k
  exact ⟨t, (run_succ (step_of_reset hin)).trans hrun, hout, hinactive, hrsps⟩

end Sys2Proof.Machine
end
